-- ==== Sys2Proof/Word.lean ====
section
/-! DEFINITION. The word types of PNGENC (00_scope.md R4, R10): 32-bit registers and addresses, 8-bit bytes,
finite byte sequences. -/

namespace Sys2Proof

/-- A register value or a byte address (R4). -/
abbrev Word := BitVec 32

/-- A byte (R10). -/
abbrev Byte := BitVec 8

/-- A byte sequence: a finite list of 8-bit values, first byte first (R10). -/
abbrev Bytes := List Byte

end Sys2Proof
end

