-- ==== Sys2Proof/Config.lean ====
section
/-! DEFINITION. What the spec leaves open, as constants with no body: nothing in Lean can evaluate one of them or prove
a value of it. REG_BASE, rd_ok and wr_ok (00_scope.md R5) are data of `Machine.State` instead (log 3). -/

namespace Sys2Proof.Config

/-- The DEFAULT-mode compressor before the laws of R144 are imposed on it (`Machine.deflateDefault`; log 5). -/
opaque deflateRaw : Bytes → Option Bytes

/-- "Any value" of one memory byte: draw number and address (R71, R79, R213, R232; log 6). -/
opaque freeByte : Nat → Nat → Byte

/-- "Any value" of a register read while BUSY: draw number (R44; log 6, log 14). -/
opaque freeWord : Nat → Word

/-- "Any value" of STATUS.XHST read while BUSY: draw number (R44; log 6). -/
opaque freeBit : Nat → Bool

end Sys2Proof.Config
end

