-- ==== Sys2Proof/Machine/State.lean ====
section
/-! DEFINITION. The state of PNGENC and what surrounds it, as plain data, and its value after reset (10_state.md R20, R24,
R52; the parameters of 00_scope.md R5; the two agents of R6). -/

namespace Sys2Proof.Machine

/-- The engine state ENG (R23). STATUS.BUSY is 1 exactly when it is `busy`. -/
inductive Eng where
  | idle
  | busy
deriving DecidableEq, Repr

/-- The error codes STATUS.ERRCODE can hold (R201). Codes 9 to 15 are never reported (93 U11). -/
inductive ErrCode where
  /-- 0 NONE: success. -/
  | none
  /-- 1 ILLEGAL_CMD (R203). -/
  | illegalCmd
  /-- 2 ILLEGAL_CFG (R204). -/
  | illegalCfg
  /-- 3 RANGE (R205). -/
  | range
  /-- 4 OVERLAP (R206). -/
  | overlap
  /-- 5 BUS_RD (R207). -/
  | busRd
  /-- 6 ZFAIL (R208). -/
  | zfail
  /-- 7 OVERFLOW (R209). -/
  | overflow
  /-- 8 BUS_WR (R210). -/
  | busWr
deriving DecidableEq, Repr

/-- The width of a host bus access (R42). -/
inductive AccessSize where
  | byte
  | half
  | word
deriving DecidableEq, Repr

/-- The two agents (R6). -/
inductive Agent where
  | host
  | engine
deriving DecidableEq, Repr

/-- What the host, or the platform's reset input, does to the block in one transition (R88, R89, R60, R230). The
pseudo-instruction `<MNEMONIC>` is a `wr` to CMD (`HostStmt.command` in Machine/HostPort.lean). -/
inductive HostStmt where
  /-- `WR`: a register-port write of `value` at a bus address (R88, R42). -/
  | wr (addr : Word) (size : AccessSize) (value : Word)
  /-- `RD`: a register-port read at a bus address (R88, R42). -/
  | rd (addr : Word) (size : AccessSize)
  /-- `MEM`: the host stores bytes at ascending memory addresses (R88). -/
  | mem (addr : Word) (bytes : Bytes)
  /-- The host reads one memory byte (R60, R79). -/
  | ld (addr : Word)
  /-- `WAIT`: read STATUS and repeat while BUSY is 1 (R89). -/
  | wait
  /-- The hard reset input `rst` is driven: asserted (true) or released (false) (R230). -/
  | rst (asserted : Bool)
deriving DecidableEq, Repr

/-- What the host's bus answered to its last statement (R42, R44). The model's own field. -/
inductive Reply where
  /-- No host access yet, or a change of the reset input, which is no bus access. -/
  | none
  /-- A write was handled (an ignored write is handled too, R43). -/
  | ack
  /-- The error response of R42. -/
  | busError
  /-- The value of a register read. -/
  | word (v : Word)
  /-- The value of a host memory read. -/
  | byte (b : Byte)
deriving DecidableEq, Repr

/-- A range of addresses the platform's memory port reaches: `size` bytes from `lo` (R5, R61). -/
structure Region where
  lo : Nat
  size : Nat
  readable : Bool
  writable : Bool
deriving DecidableEq, Repr

/-- The platform's parameters of R5 as data: any REG_BASE that is a multiple of 256, and any `rd_ok` and `wr_ok` on the
2^32 addresses, since a finite list of regions can name each of them. No step changes it (log 3). -/
structure Platform where
  /-- REG_BASE bits 31:8; its bits 7:0 are zero (R5). -/
  regBase : BitVec 24
  /-- The addresses whose accesses complete without a bus error. -/
  regions : List Region
deriving DecidableEq, Repr

/-- The memory's listed bytes in canonical form: addresses strictly rising, no entry equal to what an unlisted address
reads as (`Memory.wf` in Machine/Ops.lean). -/
abbrev Memory := List Host.Cell

/-- Why a step faults. -/
inductive Fault where
  /-- A host `MEM` statement reaches an address of 2^32 or more, which does not exist (R60). Raised by `hostStore`. Safe:
  the model stops. No command raises it. -/
  | hostAddressPastEnd
deriving DecidableEq, Repr

/-- Why the model has no transition. -/
inductive Refusal where
  /-- An instruction with no meaning yet, rejected by name in `exec`. Safe: the model stops. No arm raises it now. -/
  | notModelled (mnemonic : String)
  /-- A host write to a byte of the running command's SRC range or DST window while BUSY, which "the model does not
  admit" (R79, R239, 93 U6). Raised by `hostStore`. Safe: the model stops. -/
  | hostWriteWhileBusy
  /-- A BUSY engine's command whose prechecks pass and whose SRC range or DST window includes an address of the register
  window, which R243 forbids and 93 U15 gives no transition. Raised by `engineTurn`. Safe: the model stops (log 13). -/
  | rangeInRegisterWindow
deriving DecidableEq, Repr

/-- The machine's state. Every register of R24 that has storage, the internal state of R20, the memory of R60, the
parameters of R5 that are data, and four fields of the model's own (`host`, `turns`, `reply`, `draws`). STATUS.BUSY,
ID, CRC_VALUE, RLEN_LO, RLEN_HI and IRQ are computed from it (Machine/Flags.lean). -/
structure State where
  /-- CTRL.IRQ_EN (R26). -/
  irqEn : Bool
  /-- CTRL.PMODE (R26). -/
  pmode : BitVec 2
  /-- CTRL.ZMODE (R26). -/
  zmode : BitVec 2
  /-- STATUS.DONE (R28). -/
  done : Bool
  /-- STATUS.IGN (R28). -/
  ign : Bool
  /-- STATUS.XHST (R28, R47). -/
  xhst : Bool
  /-- STATUS.ERRCODE (R28, R201). -/
  errcode : ErrCode
  /-- SRC_ADDR (R31). -/
  srcAddr : Word
  /-- SRC_LEN (R32). -/
  srcLen : Word
  /-- DST_ADDR (R33). -/
  dstAddr : Word
  /-- DST_CAP (R34). -/
  dstCap : Word
  /-- OUT_LEN (R35). -/
  outLen : Word
  /-- WIDTH bits 15:0 (R36). -/
  width : BitVec 16
  /-- TAG (R37). -/
  tag : Word
  /-- ERR_ADDR (R40). -/
  errAddr : Word
  /-- ENG (R23). -/
  eng : Eng
  /-- CUR, the command word accepted last (R48). -/
  cur : Word
  /-- CRC_STATE, the running CRC remainder (R46). -/
  crcState : Word
  /-- LATCH, the exhaustion latch (R47). -/
  latch : Bool
  /-- The hard reset input `rst`: true while it is asserted, which holds the block in reset (R230; log 12). -/
  rst : Bool
  /-- The memory both agents share (R60). -/
  mem : Memory
  /-- REG_BASE, rd_ok and wr_ok (R5). -/
  platform : Platform
  /-- The model's own: the host's statements still to come, next first. -/
  host : List HostStmt
  /-- The model's own: whose transition comes next; when empty, a BUSY engine's, else the host's (R7; log 1). -/
  turns : List Agent
  /-- The model's own: the answer to the host's last statement. -/
  reply : Reply
  /-- The model's own: how many "any value" draws were made (log 6). -/
  draws : Nat
deriving DecidableEq, Repr

/-- The platform `State.reset` stands on, where the spec gives none (log 3): REG_BASE 0x40000000, and every address but
the register window readable and writable. No statement rests on it. -/
def Platform.presumed : Platform :=
  { regBase := 0x400000, regions := [{ lo := 0, size := 2 ^ 32, readable := true, writable := true }] }

/-- The state right after reset: R52's table, memory with nothing listed, and no host statement yet (log 2). -/
def State.reset : State :=
  { irqEn := false, pmode := 0, zmode := 0
    done := false, ign := false, xhst := false, errcode := .none
    srcAddr := 0, srcLen := 0, dstAddr := 0, dstCap := 0
    outLen := 0, width := 0, tag := 0, errAddr := 0
    eng := .idle, cur := 0, crcState := 0xFFFFFFFF, latch := false, rst := false
    mem := [], platform := Platform.presumed
    host := [], turns := [], reply := .none, draws := 0 }

end Sys2Proof.Machine
end

