-- ==== Sys2Proof/Machine/Operands.lean ====
section
/-! DEFINITION. Where a command's operands come from: byte orders (00_scope.md R11, 20_memory.md R64), the SRC range and the
DST window (R68, R69), the platform's predicates (R61, R72), the tag bytes (43_chunk.md R161). -/

namespace Sys2Proof.Machine

/-- The number of byte addresses (R60). -/
def addressSpace : Nat := 2 ^ 32

/-- Big-endian bytes of a 32-bit value (R11). -/
def be32 (v : Word) : Bytes :=
  [v.extractLsb' 24 8, v.extractLsb' 16 8, v.extractLsb' 8 8, v.extractLsb' 0 8]

/-- Little-endian bytes of a 16-bit value (R11). -/
def le16 (v : BitVec 16) : Bytes :=
  [v.extractLsb' 0 8, v.extractLsb' 8 8]

/-- `ceil_div` (R9). -/
def ceilDiv (a b : Nat) : Nat := (a + b - 1) / b

/-- The end of the SRC range, an exact sum (R68). -/
def State.srcEnd (s : State) : Nat := s.srcAddr.toNat + s.srcLen.toNat

/-- The end of the DST window, an exact sum (R68). -/
def State.dstEnd (s : State) : Nat := s.dstAddr.toNat + s.dstCap.toNat

/-- `a` is an address of the SRC range (R68). -/
def State.inSrc (s : State) (a : Nat) : Bool := decide (s.srcAddr.toNat ≤ a ∧ a < s.srcEnd)

/-- `a` is an address of the DST window (R68). -/
def State.inDst (s : State) (a : Nat) : Bool := decide (s.dstAddr.toNat ≤ a ∧ a < s.dstEnd)

/-- The SRC range and the DST window overlap (R69). -/
def State.rangesOverlap (s : State) : Bool :=
  decide (0 < s.srcLen.toNat ∧ 0 < s.dstCap.toNat ∧ s.srcAddr.toNat < s.dstEnd ∧ s.dstAddr.toNat < s.srcEnd)

/-- The tag bytes of CHUNK (R161). -/
def State.tagBytes (s : State) : Bytes := be32 s.tag

/-- REG_BASE (R5). -/
def Platform.regBaseWord (p : Platform) : Word := p.regBase ++ (0 : BitVec 8)

/-- `a` lies in the 256-byte register window (R24, R72). -/
def Platform.inWindow (p : Platform) (a : Nat) : Bool := a / 256 == p.regBase.toNat

/-- `rd_ok`: a memory-port read of `a` completes (R61). False in the register window, which the platform owes: a command
whose accesses reach the window ends with BUS_RD or BUS_WR (R72). `step` admits no command whose ranges include the window
(93 U15; log 13). -/
def Platform.rdOk (p : Platform) (a : Nat) : Bool :=
  !p.inWindow a && p.regions.any fun r => decide (r.lo ≤ a ∧ a < r.lo + r.size) && r.readable

/-- `wr_ok`: a memory-port write of `a` completes (R61). False in the register window, as `Platform.rdOk` is (R72;
log 13). -/
def Platform.wrOk (p : Platform) (a : Nat) : Bool :=
  !p.inWindow a && p.regions.any fun r => decide (r.lo ≤ a ∧ a < r.lo + r.size) && r.writable

/-- Some address of `[a, a + n)` lies in the register window (R72, R243). -/
def Platform.windowMeets (p : Platform) (a n : Nat) : Bool :=
  decide (0 < n ∧ a < p.regBase.toNat * 256 + 256 ∧ p.regBase.toNat * 256 < a + n)

end Sys2Proof.Machine
end

