-- ==== Sys2Proof/Machine/Flags.lean ====
section
/-! DEFINITION. STATUS, CTRL and the values computed from the state: ERRCODE's codes (60_exceptions.md R201), the STATUS and
CTRL words (10_state.md R26, R28), CRC_VALUE (R38), RLEN (R39) and IRQ (R215). -/

namespace Sys2Proof.Machine

/-- The 4-bit code of an error (R201). -/
def ErrCode.bits : ErrCode → BitVec 4
  | .none => 0
  | .illegalCmd => 1
  | .illegalCfg => 2
  | .range => 3
  | .overlap => 4
  | .busRd => 5
  | .zfail => 6
  | .overflow => 7
  | .busWr => 8

/-- Codes 5 to 8 are raised while a command executes; after them the DST window holds any value (R201, R213). -/
def ErrCode.isExecution (c : ErrCode) : Bool := decide (5 ≤ c.bits.toNat)

/-- Codes 5 and 8 record an address in ERR_ADDR (R201). -/
def ErrCode.hasAddr (c : ErrCode) : Bool := c == .busRd || c == .busWr

/-- STATUS.BUSY (R23, R28). -/
def State.busyBit (s : State) : Bool := s.eng == .busy

/-- A STATUS word from its fields (R28); bits 31:12 and 7:4 are reserved. -/
def statusOf (errcode : BitVec 4) (xhst ign done busy : Bool) : Word :=
  (0 : BitVec 20) ++ errcode ++ (0 : BitVec 4) ++ BitVec.ofBool xhst ++ BitVec.ofBool ign ++ BitVec.ofBool done ++
    BitVec.ofBool busy

/-- STATUS as it reads while IDLE (R28). -/
def State.statusWord (s : State) : Word :=
  statusOf s.errcode.bits s.xhst s.ign s.done s.busyBit

/-- STATUS as it reads while BUSY: BUSY 1, DONE 0, ERRCODE 0, XHST any value (R44). -/
def State.busyStatusWord (s : State) (anyXhst : Bool) : Word :=
  statusOf 0 anyXhst s.ign false true

/-- CTRL as it reads; SRST reads 0 (R26). -/
def State.ctrlWord (s : State) : Word :=
  (0 : BitVec 27) ++ s.zmode ++ s.pmode ++ BitVec.ofBool s.irqEn

/-- CRC_VALUE (R38). -/
def State.crcValue (s : State) : Word := s.crcState ^^^ 0xFFFFFFFF

/-- The raster length for a dimension (R122). -/
def rlen (S : Nat) : Nat := (3 * S + 1) * S

/-- RLEN (R39). -/
def State.rlen (s : State) : Nat := Machine.rlen s.width.toNat

/-- The IRQ output (R215). -/
def State.irq (s : State) : Bool := s.irqEn && s.done

end Sys2Proof.Machine
end

