-- ==== Sys2Proof/Machine/Ops.lean ====
section
/-! DEFINITION. The shared operations: memory bytes (20_memory.md R61), the prechecks (60_exceptions.md R202), reading the
read set (R70), `put` (R209), acceptance (30_encoding.md R86), successful and error completion (R212, R213), the host's
acknowledgement (R29, R218) and reset (70_reset_and_hazards.md R231, R232). -/

namespace Sys2Proof.Machine

/-! ### Memory -/

/-- What a byte of memory that nothing has written reads as (DESIGN CHOICE, log 4). -/
def unlistedByte : Byte := 0

/-- The byte at address `a`. -/
def Memory.read : Memory → Nat → Byte
  | [], _ => unlistedByte
  | (k, b) :: m, a => if k = a then b else Memory.read m a

/-- A memory with `v` listed at the front, unless `v` is what an unlisted address reads as. -/
def Memory.list (m : Memory) (a : Nat) (v : Byte) : Memory :=
  if v = unlistedByte then m else (a, v) :: m

/-- `Mem[a] <- v`, keeping the canonical form. -/
def Memory.write : Memory → Nat → Byte → Memory
  | [], a, v => Memory.list [] a v
  | (k, b) :: m, a, v =>
    if a < k then Memory.list ((k, b) :: m) a v
    else if a = k then Memory.list m a v
    else (k, b) :: Memory.write m a v

/-- Bytes stored at ascending addresses (R63). -/
def Memory.store : Memory → Nat → Bytes → Memory
  | m, _, [] => m
  | m, a, b :: bs => Memory.store (Memory.write m a b) (a + 1) bs

/-- `n` bytes from `a` hold any value: those of draw `draw` (log 6). -/
def Memory.havoc (draw : Nat) : Memory → Nat → Nat → Memory
  | m, _, 0 => m
  | m, a, n + 1 => Memory.havoc draw (Memory.write m a (Config.freeByte draw a)) (a + 1) n

/-- The `n` bytes from `a`, first byte first. -/
def Memory.bytes (m : Memory) (a : Nat) : Nat → Bytes
  | 0 => []
  | n + 1 => m.read a :: Memory.bytes m (a + 1) n

/-- The canonical form: addresses below 2^32 and strictly rising, no entry that an unlisted address would read as. -/
def Memory.wf : Memory → Bool
  | [] => true
  | (k, b) :: m => decide (k < addressSpace) && b != unlistedByte && m.all (fun c => decide (k < c.1)) && Memory.wf m

/-! ### Reading the read set, and the prechecks -/

/-- `MemRead` of `n` bytes from `a` in ascending order (R61, R70): the bytes before the first bus error, and its address. -/
def readSpan (p : Platform) (m : Memory) (a : Nat) : Nat → Bytes × Option Nat
  | 0 => ([], none)
  | n + 1 =>
    if p.rdOk a then (m.read a :: (readSpan p m (a + 1) n).1, (readSpan p m (a + 1) n).2)
    else ([], some a)

/-- The lowest of the `n` addresses from `a` whose write gets a bus error (R210). -/
def badWrite (p : Platform) (a : Nat) : Nat → Option Nat
  | 0 => none
  | n + 1 => if p.wrOk a then badWrite p (a + 1) n else some a

/-- The four flags a command's rule gives `precheck` (R202). -/
structure Needs where
  readsSrc : Bool
  writesDst : Bool
  pmode : Bool
  zmode : Bool
deriving DecidableEq, Repr

/-- `precheck`: the error it raises, if any, in its written order (R202). -/
def precheck (f : Needs) (s : State) : Option ErrCode :=
  if f.pmode && s.pmode == 3 then some .illegalCfg
  else if f.zmode && decide (2 ≤ s.zmode.toNat) then some .illegalCfg
  else if f.readsSrc && decide (addressSpace < s.srcEnd) then some .range
  else if f.writesDst && decide (addressSpace < s.dstEnd) then some .range
  else if f.readsSrc && f.writesDst && s.rangesOverlap then some .overlap
  else none

/-- The model admits a command with these flags: a precheck ends it, or no range it uses includes the register window (R243,
93 U15; log 13). -/
def admitsRanges (f : Needs) (s : State) : Bool :=
  (precheck f s).isSome ||
    (!(f.readsSrc && s.platform.windowMeets s.srcAddr.toNat s.srcLen.toNat) &&
      !(f.writesDst && s.platform.windowMeets s.dstAddr.toNat s.dstCap.toNat))

/-! ### A command's result (R200) -/

/-- How a command's pseudocode ends: with its output, or with the first `raise` it reaches. The state holds the register
writes made before that point (R213). -/
inductive CmdResult where
  | ok (s : State) (out : Bytes)
  | err (s : State) (code : ErrCode) (info : Word)
deriving DecidableEq, Repr

/-- The register writes after the last step that can raise. -/
def CmdResult.onOk (r : CmdResult) (f : State → State) : CmdResult :=
  match r with
  | .ok s out => .ok (f s) out
  | .err s c info => .err s c info

/-- Run the rest of a command after its prechecks (R202). -/
def checked (f : Needs) (s : State) (body : CmdResult) : CmdResult :=
  match precheck f s with
  | some e => .err s e 0
  | none => body

/-- Run the rest of a command on the first `n` bytes of the SRC range; a bus error ends it with BUS_RD (R70, R207). -/
def withSrc (s : State) (n : Nat) (body : Bytes → CmdResult) : CmdResult :=
  match readSpan s.platform s.mem s.srcAddr.toNat n with
  | (bs, none) => body bs
  | (_, some a) => .err s .busRd (BitVec.ofNat 32 a)

/-- `put` (R209, R210): OVERFLOW before any write, else BUS_WR at the lowest faulting address, else the output, which
completion writes to memory (R212). -/
def put (s : State) (out : Bytes) : CmdResult :=
  if s.dstCap.toNat < out.length then .err s .overflow 0
  else
    match badWrite s.platform s.dstAddr.toNat out.length with
    | some a => .err s .busWr (BitVec.ofNat 32 a)
    | none => .ok s out

/-! ### Acceptance, completion, acknowledgement, reset -/

/-- Acceptance of command word `w` while IDLE (R86). -/
def State.accept (s : State) (w : Word) : State :=
  { s with cur := w, done := false, errcode := .none, outLen := 0, errAddr := 0, eng := .busy }

/-- The number of DST window bytes that exist: the window may pass 2^32 where no precheck asked (R68; log 15). -/
def State.dstSpan (s : State) : Nat := min s.dstCap.toNat (addressSpace - s.dstAddr.toNat)

/-- Every byte of the DST window holds any value (R71, R213, R232; log 6, log 7). -/
def State.spoilWindow (s : State) : State :=
  { s with mem := s.mem.havoc s.draws s.dstAddr.toNat s.dstSpan, draws := s.draws + 1 }

/-- Completion with `Ok(out)` (R212): the output is in memory before DONE is 1. -/
def completeOk (s : State) (out : Bytes) : State :=
  { s with
    mem := s.mem.store s.dstAddr.toNat out, outLen := BitVec.ofNat 32 out.length
    errcode := .none, errAddr := 0, done := true, eng := .idle }

/-- Completion with `Err(code, info)`: PNGENC's only exception entry (R213, R217). Codes 5 to 8 leave the DST window with
any value; no control moves and no mode changes. -/
def raiseError (s : State) (code : ErrCode) (info : Word) : State :=
  { (if code.isExecution then s.spoilWindow else s) with
    outLen := 0, errcode := code, errAddr := info, done := true, eng := .idle }

/-- The host's acknowledgement, PNGENC's return from an error: a write of `v` to STATUS clears DONE and IGN where `v` has
a 1, and restores nothing (R29, R218). -/
def acknowledge (s : State) (v : Word) : State :=
  { s with done := s.done && !v.getLsbD 1, ign := s.ign && !v.getLsbD 2 }

/-- The completion transition (R212, R213). -/
def complete : CmdResult → State
  | .ok s out => completeOk s out
  | .err s c info => raiseError s c info

/-- R52's values for the block's registers and internal state; the reset input, memory, the platform and the model's own
fields stay (log 16). -/
def State.clearBlock (s : State) : State :=
  { State.reset with
    rst := s.rst, mem := s.mem, platform := s.platform, host := s.host, turns := s.turns, reply := s.reply, draws := s.draws }

/-- A hard or soft reset: R52's values, and a command it interrupts leaves its DST window with any value (R231, R232). -/
def State.resetBlock (s : State) : State :=
  (if s.busyBit then s.spoilWindow else s).clearBlock

/-- The hard reset input is driven to `level`: asserting it resets the block, and releasing it changes no other state
(R230, R231). -/
def State.driveReset (s : State) (level : Bool) : State :=
  if level then { s.resetBlock with rst := true } else { s with rst := false }

/-- The agent's turn is taken. -/
def State.popTurn (s : State) : State := { s with turns := s.turns.tail }

/-- The host's statement is done. -/
def State.popHost (s : State) : State := { s with host := s.host.tail }

/-- The host's bus answers. -/
def State.answer (s : State) (r : Reply) : State := { s with reply := r }

/-- One "any value" was drawn. -/
def State.drawn (s : State) : State := { s with draws := s.draws + 1 }

end Sys2Proof.Machine
end

