-- ==== Sys2Proof/Machine/Crc.lean ====
section
/-! DEFINITION. The CRC-32 generator (40_crc.md R100 to R103) and its commands CRC_INIT, CRC_BYTE and CRC_BUF (R104 to
R106). -/

namespace Sys2Proof.Machine

/-- The reflected polynomial (R100). -/
def crcPoly : Word := 0xEDB88320

/-- The initial value and the final XOR (R100). -/
def crcOnes : Word := 0xFFFFFFFF

/-- One shift of the reflected register (R101). -/
def crcShift (c : Word) : Word :=
  if c.getLsbD 0 then (c >>> 1) ^^^ crcPoly else c >>> 1

/-- `k` shifts. -/
def crcShifts : Nat → Word → Word
  | 0, c => c
  | k + 1, c => crcShifts k (crcShift c)

/-- `crc_step` (R101). -/
def crcStep (c : Word) (b : Byte) : Word := crcShifts 8 (c ^^^ b.setWidth 32)

/-- `crc_raw` (R102). -/
def crcRaw (c : Word) (bs : Bytes) : Word := bs.foldl crcStep c

/-- `crc32` (R102). -/
def crc32 (bs : Bytes) : Word := crcRaw crcOnes bs ^^^ crcOnes

/-- CRC_INIT (R104). -/
def execCrcInit (s : State) : Host.Outcome State Fault Refusal :=
  .next (complete (.ok { s with crcState := crcOnes } []))

/-- CRC_BYTE (R105). -/
def execCrcByte (imm8 : Byte) (s : State) : Host.Outcome State Fault Refusal :=
  .next (complete (.ok { s with crcState := crcStep s.crcState imm8 } []))

/-- CRC_BUF's prechecks (R106). -/
def crcBufNeeds : Needs := { readsSrc := true, writesDst := false, pmode := false, zmode := false }

/-- CRC_BUF's pseudocode (R106): the fold of the bytes before a bus error stays in CRC_STATE. -/
def crcBufResult (s : State) : CmdResult :=
  checked crcBufNeeds s
    (match readSpan s.platform s.mem s.srcAddr.toNat s.srcLen.toNat with
    | (bs, none) => .ok { s with crcState := crcRaw s.crcState bs } []
    | (bs, some a) => .err { s with crcState := crcRaw s.crcState bs } .busRd (BitVec.ofNat 32 a))

/-- CRC_BUF (R106). -/
def execCrcBuf (s : State) : Host.Outcome State Fault Refusal :=
  .next (complete (crcBufResult s))

end Sys2Proof.Machine
end

