-- ==== Sys2Proof/Machine/Scanline.lean ====
section
/-! DEFINITION. Size derivation and the scanline packer (41_scanline.md R120 to R129) and their commands SIZE and PACK (R130,
R131). -/

namespace Sys2Proof.Machine

/-- The integer square root of `p`, rounded down, given that it is at least `r` and below `r + 2^k`: the bits of the root
from bit `k - 1` down. -/
def sqrtBits (p : Nat) : Nat → Nat → Nat
  | 0, r => r
  | k + 1, r => if (r + 2 ^ k) * (r + 2 ^ k) ≤ p then sqrtBits p k (r + 2 ^ k) else sqrtBits p k r

/-- The smallest integer whose square is at least `p` (R120). -/
def sqrtCeil (p : Nat) : Nat :=
  if sqrtBits p (p.log2 / 2 + 1) 0 * sqrtBits p (p.log2 / 2 + 1) 0 < p then sqrtBits p (p.log2 / 2 + 1) 0 + 1
  else sqrtBits p (p.log2 / 2 + 1) 0

/-- `size` (R120). `size_least` in Laws/Scanline.lean says that it is the smallest such integer. -/
def size (n : Nat) : Nat := sqrtCeil (ceilDiv n 3)

/-- One pixel of the raster at input offset `o`: its three channel bytes and the latch after it. Mode 1 sets the latch
before the pixel, mode 0 after it (R123). -/
def rasterPixel (inp : Bytes) (n : Nat) (m : BitVec 2) (o : Nat) (latch : Bool) : Bytes × Bool :=
  let before := latch || (m == 1 && decide (n ≤ o + 2))
  let channel := fun c => if !before && decide (o + c < n) then inp.getD (o + c) 0 else 0
  ([channel 0, channel 1, channel 2], before || (m == 0 && decide (n ≤ o + 2)))

/-- `k` pixels of scanline `i` from pixel `j` on (R123). -/
def rasterRow (inp : Bytes) (n S : Nat) (m : BitVec 2) (i : Nat) : Nat → Nat → Bool → Bytes × Bool
  | _, 0, l => ([], l)
  | j, k + 1, l =>
    let px := rasterPixel inp n m (3 * (i * S + j)) l
    let rest := rasterRow inp n S m i (j + 1) k px.2
    (px.1 ++ rest.1, rest.2)

/-- `k` scanlines from scanline `i` on, each begun by its filter byte 0 (R123). -/
def rasterRows (inp : Bytes) (n S : Nat) (m : BitVec 2) : Nat → Nat → Bool → Bytes × Bool
  | _, 0, l => ([], l)
  | i, k + 1, l =>
    let row := rasterRow inp n S m i 0 S l
    let rest := rasterRows inp n S m (i + 1) k row.2
    (0 :: (row.1 ++ rest.1), rest.2)

/-- `raster` (R123): the filtered scanline buffer and the latch after the fill. `inp` holds the bytes of the read set, and
`n` is the input length. -/
def raster (inp : Bytes) (n S : Nat) (m : BitVec 2) : Bytes × Bool :=
  rasterRows inp n S m 0 S false

/-- How many bytes of the SRC range the raster reads, from its first byte on (R129). -/
def readCount (n S : Nat) (m : BitVec 2) : Nat :=
  min (if m = 1 then 3 * (n / 3) else n) (3 * S * S)

/-- SIZE (R130). -/
def execSize (s : State) : Host.Outcome State Fault Refusal :=
  .next (complete (.ok { s with width := BitVec.ofNat 16 (size s.srcLen.toNat) } []))

/-- PACK's prechecks (R131). -/
def packNeeds : Needs := { readsSrc := true, writesDst := true, pmode := true, zmode := false }

/-- The raster of the bytes `inp` read from the SRC range, for dimension `S` and the state's SRC_LEN and PMODE. -/
def State.rasterOf (s : State) (S : Nat) (inp : Bytes) : Bytes × Bool :=
  raster inp s.srcLen.toNat S s.pmode

/-- The number of bytes the packer reads for dimension `S` (R129). -/
def State.readCountFor (s : State) (S : Nat) : Nat :=
  readCount s.srcLen.toNat S s.pmode

/-- PACK's pseudocode (R131). LATCH takes the fill's latch (R47; log 8), XHST only on success. -/
def packResult (s : State) : CmdResult :=
  checked packNeeds s
    (withSrc s (s.readCountFor s.width.toNat) fun inp =>
      let r := s.rasterOf s.width.toNat inp
      (put { s with latch := r.2 } r.1).onOk fun t => { t with xhst := r.2 })

/-- PACK (R131). -/
def execPack (s : State) : Host.Outcome State Fault Refusal :=
  .next (complete (packResult s))

end Sys2Proof.Machine
end

