-- ==== Sys2Proof/Machine/Inflate.lean ====
section
/-! DEFINITION. DEFLATE decoding (42_zlib.md R150 to R153). It is no command: it is the function that law L2 of R144 imposes
on the DEFAULT compressor. Every loop runs on fuel that is at least the number of bits left; each turn of a loop reads
at least one bit, so the fuel never ends first. -/

namespace Sys2Proof.Machine

/-- A place in a bit stream: the bytes from the current one on, and the next bit of the current byte (R150). -/
structure BitReader where
  bytes : Bytes
  pos : Nat
deriving DecidableEq, Repr

/-- The next bit, least significant first (R150). -/
def BitReader.bit : BitReader → Option (Bool × BitReader)
  | ⟨[], _⟩ => none
  | ⟨b :: bs, p⟩ => some (b.getLsbD p, if p < 7 then ⟨b :: bs, p + 1⟩ else ⟨bs, 0⟩)

/-- A fixed-width field of `n` bits, least significant first (R150). -/
def BitReader.field : Nat → BitReader → Option (Nat × BitReader)
  | 0, r => some (0, r)
  | n + 1, r =>
    match r.bit with
    | none => none
    | some (b, r1) =>
      match BitReader.field n r1 with
      | none => none
      | some (v, r2) => some (b.toNat + 2 * v, r2)

/-- Skip to the next byte boundary (R151). -/
def BitReader.align (r : BitReader) : BitReader :=
  if r.pos = 0 then r else ⟨r.bytes.tail, 0⟩

/-! ### Canonical codes (R150) -/

/-- One code word: its length, its value read most significant bit first, its symbol. -/
structure CodeWord where
  len : Nat
  value : Nat
  symbol : Nat
deriving DecidableEq, Repr

/-- `bl_count` (R150). -/
def blCount (lens : List Nat) (l : Nat) : Nat := if l = 0 then 0 else lens.count l

/-- The first code of each length (R150). -/
def firstCode (lens : List Nat) : Nat → Nat
  | 0 => 0
  | l + 1 => 2 * (firstCode lens l + blCount lens l)

/-- The canonical code of a list of code lengths: symbols of one length take rising codes (R150). -/
def canonicalCode (lens : List Nat) : List CodeWord :=
  lens.zipIdx.filterMap fun e =>
    if e.1 = 0 then none else some ⟨e.1, firstCode lens e.1 + (lens.take e.2).count e.1, e.2⟩

/-- Decode one symbol: read bits, most significant first, until they are a code word; no code has more than 15 bits
(R150). -/
def decodeSymbol (code : List CodeWord) : Nat → Nat → Nat → BitReader → Option (Nat × BitReader)
  | 0, _, _, _ => none
  | left + 1, l, v, r =>
    match r.bit with
    | none => none
    | some (b, r1) =>
      match code.find? fun w => w.len == l + 1 && w.value == 2 * v + b.toNat with
      | some w => some (w.symbol, r1)
      | none => decodeSymbol code left (l + 1) (2 * v + b.toNat) r1

/-- Decode one symbol from the reader's place. -/
def nextSymbol (code : List CodeWord) (r : BitReader) : Option (Nat × BitReader) :=
  decodeSymbol code 15 0 0 r

/-! ### Tables (R152) -/

/-- LENGTH: base and extra bits of symbols 257 to 285. -/
def lengthTable : List (Nat × Nat) :=
  [(3, 0), (4, 0), (5, 0), (6, 0), (7, 0), (8, 0), (9, 0), (10, 0)] ++
  [(11, 1), (13, 1), (15, 1), (17, 1), (19, 2), (23, 2), (27, 2), (31, 2)] ++
  [(35, 3), (43, 3), (51, 3), (59, 3), (67, 4), (83, 4), (99, 4), (115, 4)] ++
  [(131, 5), (163, 5), (195, 5), (227, 5), (258, 0)]

/-- DIST: base and extra bits of distance symbols 0 to 29. -/
def distTable : List (Nat × Nat) :=
  [(1, 0), (2, 0), (3, 0), (4, 0), (5, 1), (7, 1), (9, 2), (13, 2), (17, 3), (25, 3)] ++
  [(33, 4), (49, 4), (65, 5), (97, 5), (129, 6), (193, 6), (257, 7), (385, 7), (513, 8), (769, 8)] ++
  [(1025, 9), (1537, 9), (2049, 10), (3073, 10), (4097, 11), (6145, 11), (8193, 12), (12289, 12), (16385, 13), (24577, 13)]

/-- The fixed literal and length code (BTYPE = 1). -/
def fixedLitCode : List CodeWord :=
  canonicalCode (List.replicate 144 8 ++ List.replicate 112 9 ++ List.replicate 24 7 ++ List.replicate 8 8)

/-- The fixed distance code (BTYPE = 1). -/
def fixedDistCode : List CodeWord := canonicalCode (List.replicate 32 5)

/-- ORDER of the code-length code lengths (R153). -/
def clOrder : List Nat := [16, 17, 18, 0, 8, 7, 9, 6, 10, 5, 11, 4, 12, 3, 13, 2, 14, 1, 15]

/-! ### Blocks (R151, R153). The output so far is kept last byte first. -/

/-- Append `n` copies from distance `dist`, each seeing the ones before it (R151). -/
def copyBack (dist : Nat) : Nat → Bytes → Bytes
  | 0, rev => rev
  | n + 1, rev => copyBack dist n (rev.getD (dist - 1) 0 :: rev)

/-- The length and distance of a back-reference whose length symbol was `sym` (R151). -/
def backReference (distCode : List CodeWord) (sym : Nat) (r : BitReader) : Option (Nat × Nat × BitReader) :=
  match lengthTable[sym - 257]? with
  | none => none
  | some (base, nx) =>
    match r.field nx with
    | none => none
    | some (ex, r1) =>
      match nextSymbol distCode r1 with
      | none => none
      | some (dsym, r2) =>
        match distTable[dsym]? with
        | none => none
        | some (dbase, dx) =>
          match r2.field dx with
          | none => none
          | some (dex, r3) => some (base + ex, dbase + dex, r3)

/-- `decode_block` (R151). -/
def decodeBlock (litCode distCode : List CodeWord) : Nat → Bytes → BitReader → Option (Bytes × BitReader)
  | 0, _, _ => none
  | fuel + 1, rev, r =>
    match nextSymbol litCode r with
    | none => none
    | some (sym, r1) =>
      if sym < 256 then decodeBlock litCode distCode fuel (BitVec.ofNat 8 sym :: rev) r1
      else if sym = 256 then some (rev, r1)
      else
        match backReference distCode sym r1 with
        | none => none
        | some (len, dist, r2) =>
          if rev.length < dist then none
          else decodeBlock litCode distCode fuel (copyBack dist len rev) r2

/-- Read `HCLEN` three-bit code lengths (R153). -/
def readClLens : Nat → BitReader → Option (List Nat × BitReader)
  | 0, r => some ([], r)
  | n + 1, r =>
    match r.field 3 with
    | none => none
    | some (v, r1) =>
      match readClLens n r1 with
      | none => none
      | some (vs, r2) => some (v :: vs, r2)

/-- `cl_len` of symbol `s` when the lengths read are `vs`, in ORDER (R153). -/
def clLenOf (vs : List Nat) (s : Nat) : Nat := vs.getD (clOrder.idxOf s) 0

/-- The loop that reads `total` code lengths with the code-length code (R153); the lengths so far are kept last first. -/
def readLens (cl : List CodeWord) (total : Nat) : Nat → List Nat → BitReader → Option (List Nat × BitReader)
  | 0, _, _ => none
  | fuel + 1, rev, r =>
    if total ≤ rev.length then (if total < rev.length then none else some (rev.reverse, r))
    else
      match nextSymbol cl r with
      | none => none
      | some (s, r1) =>
        if s ≤ 15 then readLens cl total fuel (s :: rev) r1
        else if s = 16 then
          match rev, r1.field 2 with
          | last :: _, some (x, r2) => readLens cl total fuel (List.replicate (3 + x) last ++ rev) r2
          | _, _ => none
        else if s = 17 then
          match r1.field 3 with
          | some (x, r2) => readLens cl total fuel (List.replicate (3 + x) 0 ++ rev) r2
          | none => none
        else
          match r1.field 7 with
          | some (x, r2) => readLens cl total fuel (List.replicate (11 + x) 0 ++ rev) r2
          | none => none

/-- The dynamic code tables (R153). -/
def readTables (fuel : Nat) (r : BitReader) : Option (List CodeWord × List CodeWord × BitReader) :=
  match r.field 5 with
  | none => none
  | some (hlit, r1) =>
    match r1.field 5 with
    | none => none
    | some (hdist, r2) =>
      match r2.field 4 with
      | none => none
      | some (hclen, r3) =>
        match readClLens (hclen + 4) r3 with
        | none => none
        | some (vs, r4) =>
          match readLens (canonicalCode ((List.range 19).map (clLenOf vs))) (hlit + 257 + (hdist + 1)) fuel [] r4 with
          | none => none
          | some (lens, r5) =>
            if lens.getD 256 0 = 0 then none
            else some (canonicalCode (lens.take (hlit + 257)), canonicalCode (lens.drop (hlit + 257)), r5)

/-- A stored block's LEN, NLEN and bytes (R151, BTYPE = 0). -/
def storedBlock (rev : Bytes) (r : BitReader) : Option (Bytes × BitReader) :=
  match r.align.field 16 with
  | none => none
  | some (len, r1) =>
    match r1.field 16 with
    | none => none
    | some (nlen, r2) =>
      if nlen ≠ 65535 - len then none
      else if r2.bytes.length < len then none
      else some ((r2.bytes.take len).reverse ++ rev, ⟨r2.bytes.drop len, 0⟩)

/-- One block's body for its BTYPE (R151). -/
def blockBody (fuel btype : Nat) (rev : Bytes) (r : BitReader) : Option (Bytes × BitReader) :=
  match btype with
  | 0 => storedBlock rev r
  | 1 => decodeBlock fixedLitCode fixedDistCode fuel rev r
  | 2 =>
    match readTables fuel r with
    | none => none
    | some (ll, d, r1) => decodeBlock ll d fuel rev r1
  | _ => none

/-- The loop over blocks until BFINAL (R151); `bitFuel` is the fuel of the loops inside a block. -/
def inflateBlocks (bitFuel : Nat) : Nat → Bytes → BitReader → Option (Bytes × BitReader)
  | 0, _, _ => none
  | fuel + 1, rev, r =>
    match r.bit with
    | none => none
    | some (bfinal, r1) =>
      match r1.field 2 with
      | none => none
      | some (btype, r2) =>
        match blockBody bitFuel btype rev r2 with
        | none => none
        | some (rev1, r3) => if bfinal then some (rev1, r3) else inflateBlocks bitFuel fuel rev1 r3

/-- `inflate` (R151): the decoded bytes, if the stream is one complete stream that fills `b` exactly. -/
def inflate (b : Bytes) : Option Bytes :=
  match inflateBlocks (8 * b.length + 1) (8 * b.length + 1) [] ⟨b, 0⟩ with
  | none => none
  | some (rev, r) => if r.align.bytes.isEmpty then some rev.reverse else none

end Sys2Proof.Machine
end

