-- ==== Sys2Proof/Machine/Zlib.lean ====
section
/-! DEFINITION. The zlib wrapper and the two compressors (42_zlib.md R140 to R146) and the command ZLIB (R147). -/

namespace Sys2Proof.Machine

/-- One byte of the Adler-32 sums (R142). -/
def adlerStep (p : Nat × Nat) (b : Byte) : Nat × Nat :=
  ((p.1 + b.toNat) % 65521, (p.2 + (p.1 + b.toNat) % 65521) % 65521)

/-- `adler32` (R142). -/
def adler32 (bs : Bytes) : Word :=
  BitVec.ofNat 32 ((bs.foldl adlerStep (1, 0)).2 * 65536 + (bs.foldl adlerStep (1, 0)).1)

/-- One stored block: the header byte, LEN, NLEN and the data (R143). -/
def storedBlockBytes (final : Bool) (blk : Bytes) : Bytes :=
  (if final then 1 else 0) :: (le16 (BitVec.ofNat 16 blk.length) ++ le16 (~~~BitVec.ofNat 16 blk.length) ++ blk)

/-- `k` stored blocks of up to 65535 bytes, the last of them final (R143). -/
def storedBlocks : Nat → Bytes → Bytes
  | 0, _ => []
  | k + 1, d => storedBlockBytes (k == 0) (d.take 65535) ++ storedBlocks k (d.drop 65535)

/-- `deflate_stored` (R143): one empty final block for the empty input. -/
def deflateStored (d : Bytes) : Bytes :=
  storedBlocks (max 1 (ceilDiv d.length 65535)) d

/-- `deflate_default` (R144): the opaque compressor held to law L2, so that it is any compressor that satisfies L1 to L4
and no other. A result that does not inflate to its input counts as the internal failure of L4 (log 5). -/
def deflateDefault (d : Bytes) : Option Bytes :=
  match Config.deflateRaw d with
  | none => none
  | some b => if inflate b = some d then some b else none

/-- `zlib` for the ZMODE values 0 and 1 (R141, R145). -/
def zlib (d : Bytes) (z : BitVec 2) : Option Bytes :=
  if z = 1 then some ([0x78, 0x01] ++ deflateStored d ++ be32 (adler32 d))
  else
    match deflateDefault d with
    | none => none
    | some b => some ([0x78, 0x9C] ++ b ++ be32 (adler32 d))

/-- Compress `d` in the state's ZMODE and go on with the stream; a compressor failure is ZFAIL (R147, R208). -/
def withZlib (s : State) (d : Bytes) (body : Bytes → CmdResult) : CmdResult :=
  match zlib d s.zmode with
  | none => .err s .zfail 0
  | some z => body z

/-- ZLIB's prechecks (R147). -/
def zlibNeeds : Needs := { readsSrc := true, writesDst := true, pmode := false, zmode := true }

/-- ZLIB's pseudocode (R147). -/
def zlibResult (s : State) : CmdResult :=
  checked zlibNeeds s (withSrc s s.srcLen.toNat fun d => withZlib s d fun z => put s z)

/-- ZLIB (R147). -/
def execZlib (s : State) : Host.Outcome State Fault Refusal :=
  .next (complete (zlibResult s))

end Sys2Proof.Machine
end

