-- ==== Sys2Proof/Machine/Chunk.lean ====
section
/-! DEFINITION. The chunk assembler (43_chunk.md R160 to R163) and its commands CHUNK, IHDR, IDAT and IEND (R164 to R168). -/

namespace Sys2Proof.Machine

/-- `chunk` (R160): length, tag, data, CRC over tag and data. -/
def chunk (t d : Bytes) : Bytes :=
  be32 (BitVec.ofNat 32 d.length) ++ t ++ d ++ be32 (crc32 (t ++ d))

/-- "IHDR" (R162). -/
def tagIHDR : Bytes := [0x49, 0x48, 0x44, 0x52]

/-- "IDAT" (R162). -/
def tagIDAT : Bytes := [0x49, 0x44, 0x41, 0x54]

/-- "IEND" (R162). -/
def tagIEND : Bytes := [0x49, 0x45, 0x4E, 0x44]

/-- `ihdr_data` (R163). -/
def ihdrData (S : Word) : Bytes := be32 S ++ be32 S ++ [8, 2, 0, 0, 0]

/-- CRC_STATE after the chunk `(t, d)` (R168). -/
def chunkCrcState (t d : Bytes) : Word := crcRaw crcOnes (t ++ d)

/-- Put one chunk and leave its CRC in CRC_STATE on success (R164 to R168). -/
def putChunk (s : State) (t d : Bytes) : CmdResult :=
  (put s (chunk t d)).onOk fun u => { u with crcState := chunkCrcState t d }

/-- CHUNK's prechecks (R164). -/
def chunkNeeds : Needs := { readsSrc := true, writesDst := true, pmode := false, zmode := false }

/-- The prechecks of the commands that only write: IHDR, IEND and SIG (R202). -/
def writeNeeds : Needs := { readsSrc := false, writesDst := true, pmode := false, zmode := false }

/-- The prechecks of the commands that run the whole pipeline: IDAT and ENCODE (R202). -/
def pipelineNeeds : Needs := { readsSrc := true, writesDst := true, pmode := true, zmode := true }

/-- CHUNK's pseudocode (R164). -/
def chunkResult (s : State) : CmdResult :=
  checked chunkNeeds s (withSrc s s.srcLen.toNat fun d => putChunk s s.tagBytes d)

/-- CHUNK (R164). -/
def execChunk (s : State) : Host.Outcome State Fault Refusal :=
  .next (complete (chunkResult s))

/-- IHDR's pseudocode (R165). -/
def ihdrResult (s : State) : CmdResult :=
  checked writeNeeds s (putChunk s tagIHDR (ihdrData (s.width.setWidth 32)))

/-- IHDR (R165). -/
def execIhdr (s : State) : Host.Outcome State Fault Refusal :=
  .next (complete (ihdrResult s))

/-- IDAT's pseudocode (R166). -/
def idatResult (s : State) : CmdResult :=
  checked pipelineNeeds s
    (withSrc s (s.readCountFor s.width.toNat) fun inp =>
      let r := s.rasterOf s.width.toNat inp
      let t := { s with latch := r.2 }
      withZlib t r.1 fun z => (putChunk t tagIDAT z).onOk fun u => { u with xhst := r.2 })

/-- IDAT (R166). -/
def execIdat (s : State) : Host.Outcome State Fault Refusal :=
  .next (complete (idatResult s))

/-- IEND's pseudocode (R167). -/
def iendResult (s : State) : CmdResult :=
  checked writeNeeds s (putChunk s tagIEND [])

/-- IEND (R167). -/
def execIend (s : State) : Host.Outcome State Fault Refusal :=
  .next (complete (iendResult s))

end Sys2Proof.Machine
end

