-- ==== Sys2Proof/Machine/File.lean ====
section
/-! DEFINITION. The file assembler (44_file.md R180, R181) and its commands SIG and ENCODE (R183, R184). -/

namespace Sys2Proof.Machine

/-- The PNG signature SIG (R180). -/
def pngSignature : Bytes := [0x89, 0x50, 0x4E, 0x47, 0x0D, 0x0A, 0x1A, 0x0A]

/-- The file around an IDAT stream `z` for dimension `S`: signature, IHDR, IDAT, IEND (R181, R182). -/
def fileOf (S : Nat) (z : Bytes) : Bytes :=
  pngSignature ++ chunk tagIHDR (ihdrData (BitVec.ofNat 32 S)) ++ chunk tagIDAT z ++ chunk tagIEND []

/-- `png_file` (R181). -/
def pngFile (inp : Bytes) (n : Nat) (m z : BitVec 2) : Option (Bytes × Nat × Bool) :=
  let r := raster inp n (size n) m
  match zlib r.1 z with
  | none => none
  | some st => some (fileOf (size n) st, size n, r.2)

/-- SIG's pseudocode (R183). -/
def sigResult (s : State) : CmdResult :=
  checked writeNeeds s (put s pngSignature)

/-- SIG (R183). -/
def execSig (s : State) : Host.Outcome State Fault Refusal :=
  .next (complete (sigResult s))

/-- ENCODE's pseudocode (R184). WIDTH is written before any byte is read and stays on a later error (R213). -/
def encodeResult (s : State) : CmdResult :=
  checked pipelineNeeds s
    (let S := size s.srcLen.toNat
     let w := { s with width := BitVec.ofNat 16 S }
     withSrc w (s.readCountFor S) fun inp =>
      let r := s.rasterOf S inp
      let t := { w with latch := r.2 }
      withZlib t r.1 fun z =>
        (put t (fileOf S z)).onOk fun u => { u with crcState := chunkCrcState tagIEND [], xhst := r.2 })

/-- ENCODE (R184). -/
def execEncode (s : State) : Host.Outcome State Fault Refusal :=
  .next (complete (encodeResult s))

end Sys2Proof.Machine
end

