-- ==== Sys2Proof/Syntax.lean ====
section
/-! DEFINITION. The commands of PNGENC: one constructor per row of spec/opcode_table.json (30_encoding.md R83). -/

namespace Sys2Proof

/-- A command. Its only operand in the command word is CRC_BYTE's IMM8 (R82); every other operand is a register. -/
inductive Instr where
  /-- NOP (R190). -/
  | nop
  /-- CRC_INIT (R104). -/
  | crcInit
  /-- CRC_BYTE with its data byte IMM8 (R105). -/
  | crcByte (imm8 : Byte)
  /-- CRC_BUF (R106). -/
  | crcBuf
  /-- SIZE (R130). -/
  | size
  /-- PACK (R131). -/
  | pack
  /-- ZLIB (R147). -/
  | zlib
  /-- CHUNK (R164). -/
  | chunk
  /-- IHDR (R165). -/
  | ihdr
  /-- IDAT (R166). -/
  | idat
  /-- IEND (R167). -/
  | iend
  /-- SIG (R183). -/
  | sig
  /-- ENCODE (R184). -/
  | encode
deriving DecidableEq, Repr

end Sys2Proof
end

