-- ==== Sys2Proof/Machine/Admission.lean ====
section
/-! DEFINITION. Which commands the model admits: none whose SRC range or DST window includes the register window
(70_reset_and_hazards.md R243, 93_implementation_defined.md U15). -/

namespace Sys2Proof.Machine

/-- The engine's transition for a command is admitted from `s` (R243, 93 U15; log 13). A command that uses neither range
always is. -/
def admits (s : State) : Instr → Bool
  | .nop => true
  | .crcInit => true
  | .crcByte _ => true
  | .crcBuf => admitsRanges crcBufNeeds s
  | .size => true
  | .pack => admitsRanges packNeeds s
  | .zlib => admitsRanges zlibNeeds s
  | .chunk => admitsRanges chunkNeeds s
  | .ihdr => admitsRanges writeNeeds s
  | .idat => admitsRanges pipelineNeeds s
  | .iend => admitsRanges writeNeeds s
  | .sig => admitsRanges writeNeeds s
  | .encode => admitsRanges pipelineNeeds s

end Sys2Proof.Machine
end

