-- ==== Sys2Proof/Machine/System.lean ====
section
/-! DEFINITION. The system command NOP (45_system.md R190), and the completion of a word that is no command (60_exceptions.md
R203). -/

namespace Sys2Proof.Machine

/-- NOP (R190). -/
def execNop (s : State) : Host.Outcome State Fault Refusal :=
  .next (complete (.ok s []))

/-- An accepted word that is not legal completes with ILLEGAL_CMD and does nothing else (R84, R87, R203). -/
def execIllegal (s : State) : Host.Outcome State Fault Refusal :=
  .next (complete (.err s .illegalCmd 0))

end Sys2Proof.Machine
end

