-- ==== Sys2Proof/Machine/Dispatch.lean ====
section
/-! DEFINITION. The command table: one arm per command (30_encoding.md R83, R87). -/

namespace Sys2Proof.Machine

/-- The engine's completion transition for a command (R87). -/
def exec (i : Instr) (s : State) : Host.Outcome State Fault Refusal :=
  match i with
  | .nop => Sys2Proof.Machine.execNop s
  | .crcInit => Sys2Proof.Machine.execCrcInit s
  | .crcByte imm8 => Sys2Proof.Machine.execCrcByte imm8 s
  | .crcBuf => Sys2Proof.Machine.execCrcBuf s
  | .size => Sys2Proof.Machine.execSize s
  | .pack => Sys2Proof.Machine.execPack s
  | .zlib => Sys2Proof.Machine.execZlib s
  | .chunk => Sys2Proof.Machine.execChunk s
  | .ihdr => Sys2Proof.Machine.execIhdr s
  | .idat => Sys2Proof.Machine.execIdat s
  | .iend => Sys2Proof.Machine.execIend s
  | .sig => Sys2Proof.Machine.execSig s
  | .encode => Sys2Proof.Machine.execEncode s

end Sys2Proof.Machine
end

