-- ==== Sys2Proof/WellFormed.lean ====
section
/-! DEFINITION. The fields of a command word (30_encoding.md R80) and the check that they form a command (R84), written
as the spec writes them and apart from the decoder, which is held against them. A term of `Instr` carries its one
operand in its exact width, so every term of it is well formed. -/

namespace Sys2Proof

/-- The fields of the format CMD32 (R80). -/
structure Cmd32 where
  /-- Bits 31:16, reserved. -/
  rsvd : BitVec 16
  /-- Bits 15:8. -/
  imm8 : Byte
  /-- Bits 7:0. -/
  op : Byte
deriving DecidableEq, Repr

/-- The OP values of R83. -/
def Cmd32.opcodes : List Byte :=
  [0x00, 0x01, 0x02, 0x03, 0x10, 0x11, 0x20, 0x30, 0x31, 0x32, 0x33, 0x40, 0x41]

/-- R84: RSVD is zero, OP is one of R83's, and IMM8 is zero except for CRC_BYTE. -/
def Cmd32.legal (c : Cmd32) : Bool :=
  c.rsvd == 0 && Cmd32.opcodes.contains c.op && (c.op == 0x02 || c.imm8 == 0)

end Sys2Proof
end

