-- ==== Sys2Proof/Decode.lean ====
section
/-! DEFINITION. Decoding a command word, total on every word (30_encoding.md R81, R84, R85), and after it the encoder.
A word outside R83's map decodes to `none`: it is the illegal command of R203, which the engine completes with
ILLEGAL_CMD. -/

namespace Sys2Proof

/-- The fields of a command word (R80). -/
def Cmd32.ofWord (w : Word) : Cmd32 :=
  { rsvd := w.extractLsb' 16 16, imm8 := w.extractLsb' 8 8, op := w.extractLsb' 0 8 }

/-- The command word with these fields (R80). -/
def Cmd32.toWord (c : Cmd32) : Word :=
  c.rsvd ++ c.imm8 ++ c.op

/-- The command an OP value stands for (R83). IMM8 is the operand of CRC_BYTE alone (R82). -/
def decodeOp (op imm8 : Byte) : Option Instr :=
  match op.toNat with
  | 0x00 => some .nop
  | 0x01 => some .crcInit
  | 0x02 => some (.crcByte imm8)
  | 0x03 => some .crcBuf
  | 0x10 => some .size
  | 0x11 => some .pack
  | 0x20 => some .zlib
  | 0x30 => some .chunk
  | 0x31 => some .ihdr
  | 0x32 => some .idat
  | 0x33 => some .iend
  | 0x40 => some .sig
  | 0x41 => some .encode
  | _ => none

/-- The decoder: the command is told from OP, then IMM8 and RSVD are checked (R81, R85). -/
def decodeFields (c : Cmd32) : Option Instr :=
  if c.rsvd ≠ 0 then none
  else
    match decodeOp c.op c.imm8 with
    | some (.crcByte b) => some (.crcByte b)
    | some i => if c.imm8 = 0 then some i else none
    | none => none

/-- The command a 32-bit command word stands for, `none` where the word is not legal (R84). -/
def decode (w : Word) : Option Instr :=
  decodeFields (Cmd32.ofWord w)

/-- The fields of a command's word, from each command's "Encoding" line (R83, R104 to R106, R130, R131, R147, R164 to
R167, R183, R184, R190). -/
def Instr.fields : Instr → Cmd32
  | .nop => ⟨0, 0, 0x00⟩
  | .crcInit => ⟨0, 0, 0x01⟩
  | .crcByte b => ⟨0, b, 0x02⟩
  | .crcBuf => ⟨0, 0, 0x03⟩
  | .size => ⟨0, 0, 0x10⟩
  | .pack => ⟨0, 0, 0x11⟩
  | .zlib => ⟨0, 0, 0x20⟩
  | .chunk => ⟨0, 0, 0x30⟩
  | .ihdr => ⟨0, 0, 0x31⟩
  | .idat => ⟨0, 0, 0x32⟩
  | .iend => ⟨0, 0, 0x33⟩
  | .sig => ⟨0, 0, 0x40⟩
  | .encode => ⟨0, 0, 0x41⟩

/-- The encoder: the command word a host writes to CMD for a command (R89). -/
def encode (i : Instr) : Word :=
  i.fields.toWord

/-- A command word given as a number of `nbits` bits, bit 0 its least significant bit, every bit above `nbits` zero.
Every command is one 32-bit word (R81), so a longer row has no command. The word is a register value, not bytes in
memory (R65, R77; log 21). -/
def tableWord (nbits w : Nat) : Option Word :=
  if nbits ≤ 32 then some (BitVec.ofNat 32 (w % 2 ^ nbits)) else none

/-- The command the decoder reads from a row of the opcode table. -/
def decodeTableWord (nbits w : Nat) : Option Instr :=
  (tableWord nbits w).bind decode

end Sys2Proof
end

