-- ==== Sys2Proof/Machine/HostPort.lean ====
section
/-! DEFINITION. The register port (10_state.md R24 to R45), the host's memory accesses (20_memory.md R60, R79) and the host's
statements (30_encoding.md R88, R89). -/

namespace Sys2Proof.Machine

/-- The registers of the window (R24). -/
inductive RegName where
  | id | ctrl | status | cmd | srcAddr | srcLen | dstAddr | dstCap | outLen | width | tag | crcValue | rlenLo | rlenHi
  | errAddr
deriving DecidableEq, Repr

/-- A register's offset in bytes from REG_BASE (R24). -/
def RegName.offset : RegName → BitVec 8
  | .id => 0x00
  | .ctrl => 0x04
  | .status => 0x08
  | .cmd => 0x0C
  | .srcAddr => 0x10
  | .srcLen => 0x14
  | .dstAddr => 0x18
  | .dstCap => 0x1C
  | .outLen => 0x20
  | .width => 0x24
  | .tag => 0x28
  | .crcValue => 0x2C
  | .rlenLo => 0x30
  | .rlenHi => 0x34
  | .errAddr => 0x38

/-- The register at an offset; `none` is a reserved offset (R24, R41). -/
def regAt (off : BitVec 8) : Option RegName :=
  match off.toNat with
  | 0x00 => some .id
  | 0x04 => some .ctrl
  | 0x08 => some .status
  | 0x0C => some .cmd
  | 0x10 => some .srcAddr
  | 0x14 => some .srcLen
  | 0x18 => some .dstAddr
  | 0x1C => some .dstCap
  | 0x20 => some .outLen
  | 0x24 => some .width
  | 0x28 => some .tag
  | 0x2C => some .crcValue
  | 0x30 => some .rlenLo
  | 0x34 => some .rlenHi
  | 0x38 => some .errAddr
  | _ => none

/-- The bus address of a register (R24, R88). -/
def Platform.regAddr (p : Platform) (r : RegName) : Word := p.regBase ++ r.offset

/-- ID's constant (R25). -/
def idValue : Word := 0x504E4701

/-- The value a register reads while IDLE (R25 to R40). -/
def State.idleValue (s : State) : RegName → Word
  | .id => idValue
  | .ctrl => s.ctrlWord
  | .status => s.statusWord
  | .cmd => 0
  | .srcAddr => s.srcAddr
  | .srcLen => s.srcLen
  | .dstAddr => s.dstAddr
  | .dstCap => s.dstCap
  | .outLen => s.outLen
  | .width => s.width.setWidth 32
  | .tag => s.tag
  | .crcValue => s.crcValue
  | .rlenLo => BitVec.ofNat 32 s.rlen
  | .rlenHi => BitVec.ofNat 32 (s.rlen / 2 ^ 32)
  | .errAddr => s.errAddr

/-- The value a register reads while BUSY (R44): CRC_VALUE, WIDTH, RLEN_LO, RLEN_HI and STATUS.XHST read any value,
OUT_LEN and ERR_ADDR read 0, and the others read their values (log 14). -/
def State.busyValue (s : State) : RegName → Word
  | .status => s.busyStatusWord (Config.freeBit s.draws)
  | .outLen => 0
  | .errAddr => 0
  | .crcValue => Config.freeWord s.draws
  | .width => Config.freeWord s.draws
  | .rlenLo => Config.freeWord s.draws
  | .rlenHi => Config.freeWord s.draws
  | .id => s.idleValue .id
  | .ctrl => s.idleValue .ctrl
  | .cmd => s.idleValue .cmd
  | .srcAddr => s.idleValue .srcAddr
  | .srcLen => s.idleValue .srcLen
  | .dstAddr => s.idleValue .dstAddr
  | .dstCap => s.idleValue .dstCap
  | .tag => s.idleValue .tag

/-- The value a register reads (R44); a reserved offset reads 0 (R41). -/
def State.regValue (s : State) (r : Option RegName) : Word :=
  match r with
  | none => 0
  | some r => if s.busyBit then s.busyValue r else s.idleValue r

/-- A register read: the bus answers the value, and no state of PNGENC changes (R44). A read while BUSY uses up one draw
of the model's own. -/
def regRead (s : State) (r : Option RegName) : State :=
  (if s.busyBit then s.drawn else s).answer (.word (s.regValue r))

/-- A write to CTRL without SRST (R27). -/
def writeCtrl (s : State) (v : Word) : State :=
  if s.busyBit then { s with irqEn := v.getLsbD 0 }
  else { s with irqEn := v.getLsbD 0, pmode := v.extractLsb' 1 2, zmode := v.extractLsb' 3 2 }

/-- A write to CMD or to an operand register: `f` while IDLE; while BUSY it is ignored and sets IGN (R43, R86). -/
def writeIdle (s : State) (f : State → State) : State :=
  if s.busyBit then { s with ign := true } else f s

/-- The effect of a 32-bit write of `v` to a register (R25 to R43, R86). -/
def writeReg (s : State) (v : Word) : RegName → State
  | .ctrl => if v.getLsbD 31 then s.resetBlock else writeCtrl s v
  | .status => acknowledge s v
  | .cmd => writeIdle s fun t => t.accept v
  | .srcAddr => writeIdle s fun t => { t with srcAddr := v }
  | .srcLen => writeIdle s fun t => { t with srcLen := v }
  | .dstAddr => writeIdle s fun t => { t with dstAddr := v }
  | .dstCap => writeIdle s fun t => { t with dstCap := v }
  | .width => writeIdle s fun t => { t with width := v.setWidth 16 }
  | .tag => writeIdle s fun t => { t with tag := v }
  | .id => s
  | .outLen => s
  | .crcValue => s
  | .rlenLo => s
  | .rlenHi => s
  | .errAddr => s

/-- A register write: its effect, and the bus's answer; a reserved offset ignores it (R41). While `rst` is asserted the reset
stays active, so the write is handled and the block keeps its reset values (R230, R231; log 12). -/
def regWrite (s : State) (r : Option RegName) (v : Word) : State :=
  (match r with
    | none => s
    | some r => if s.rst then s else writeReg s v r).answer .ack

/-- What the register port selects for an access: `none` is the error response of R42, which every access gets that is
not an aligned 32-bit word in the window (log 11). -/
def portSelect (p : Platform) (addr : Word) (size : AccessSize) : Option (Option RegName) :=
  if size = .word ∧ p.inWindow addr.toNat ∧ addr.toNat % 4 = 0 then some (regAt (addr.extractLsb' 0 8)) else none

/-- `RD` (R88, R42). A read looks at no reset input: while `rst` is asserted the engine is IDLE and every register reads its
value (R44). -/
def portRead (s : State) (addr : Word) (size : AccessSize) : State :=
  match portSelect s.platform addr size with
  | none => s.answer .busError
  | some r => regRead s r

/-- `WR` (R88, R42). -/
def portWrite (s : State) (addr : Word) (size : AccessSize) (v : Word) : State :=
  match portSelect s.platform addr size with
  | none => s.answer .busError
  | some r => regWrite s r v

/-- A host read of one memory byte: any value in the DST window while BUSY (R79). In the register window it is an 8-bit
register access and gets the error response (R42; log 11). -/
def hostLoad (s : State) (addr : Word) : State :=
  if s.platform.inWindow addr.toNat then s.answer .busError
  else if s.busyBit && s.inDst addr.toNat then
    s.drawn.answer (.byte (Config.freeByte s.draws addr.toNat))
  else s.answer (.byte (s.mem.read addr.toNat))

/-- The host's stores of `bs` from address `a` on, one byte after another (R88). A store in the register window is an
8-bit register access: an error response, and nothing changes (R42; log 11). -/
def storeBytes (p : Platform) (m : Memory) (r : Reply) (a : Nat) : Bytes → Memory × Reply
  | [] => (m, r)
  | b :: bs =>
    if p.inWindow a then storeBytes p m .busError (a + 1) bs else storeBytes p (m.write a b) r (a + 1) bs

/-- Some byte of `[a, a + n)` lies in the SRC range or in the DST window (R79). -/
def touchesRanges (s : State) (a : Nat) : Nat → Bool
  | 0 => false
  | n + 1 => s.inSrc a || s.inDst a || touchesRanges s (a + 1) n

/-- `MEM` (R88): refused while BUSY where it touches the running command's ranges (R79, R239); past the address space it
faults (R60). -/
def hostStore (s : State) (addr : Word) (bs : Bytes) : Host.Outcome State Fault Refusal :=
  if addressSpace < addr.toNat + bs.length then .fault .hostAddressPastEnd
  else if s.busyBit && touchesRanges s addr.toNat bs.length then .refused .hostWriteWhileBusy
  else
    let r := storeBytes s.platform s.mem .ack addr.toNat bs
    .next { s with mem := r.1, reply := r.2 }

/-- The read of STATUS that was answered so ends `WAIT`: bit 0 (BUSY) is 0 (R89). -/
def Reply.endsWait : Reply → Bool
  | .word v => !v.getLsbD 0
  | .none => false
  | .ack => false
  | .busError => false
  | .byte _ => false

/-- One turn of `WAIT`: `RD STATUS`, and the statement stays next while bit 0 of the answer is 1 (R89; log 17). R89 leaves
open what a `WAIT` does when a reset comes while it polls. DESIGN CHOICE: no reset falls between the reads of one
`WAIT`, since a reset is a statement of the same list and comes after it (log 17). -/
def hostWait (s : State) : State :=
  let t := portRead s (s.platform.regAddr .status) .word
  if t.reply.endsWait then t.popHost else t

/-- The host performs its next statement (R88). With none left it does nothing. The resets are statements of the same list,
so one that should come while a `WAIT` polls is written by unrolling its loop (DESIGN CHOICE, log 17). -/
def hostTurn (s : State) : Host.Outcome State Fault Refusal :=
  match s.host with
  | [] => .next s
  | .wr a z v :: _ => .next (portWrite s.popHost a z v)
  | .rd a z :: _ => .next (portRead s.popHost a z)
  | .mem a bs :: _ => hostStore s.popHost a bs
  | .ld a :: _ => .next (hostLoad s.popHost a)
  | .wait :: _ => .next (hostWait s)
  | .rst level :: _ => .next ((s.popHost.driveReset level).answer .none)

/-- `<MNEMONIC>` and `CRC_BYTE <b>`: a write of the command's word to CMD (R89). -/
def HostStmt.command (p : Platform) (i : Instr) : HostStmt :=
  .wr (p.regAddr .cmd) .word (encode i)

/-- `WR <reg>, <imm32>` (R88). -/
def HostStmt.writeTo (p : Platform) (r : RegName) (v : Word) : HostStmt :=
  .wr (p.regAddr r) .word v

/-- `RD <reg>` (R88). -/
def HostStmt.readFrom (p : Platform) (r : RegName) : HostStmt :=
  .rd (p.regAddr r) .word

/-- Whose transition comes next: as `turns` says, and after it a BUSY engine's before the host's (R6, R7; log 1). -/
def State.nextAgent (s : State) : Agent :=
  match s.turns with
  | a :: _ => a
  | [] => if s.busyBit then .engine else .host

end Sys2Proof.Machine
end

