-- ==== Sys2Proof/Machine/Step.lean ====
section
/-! DEFINITION. One step: one transition of the agent whose turn it is (00_scope.md R6). -/

namespace Sys2Proof.Machine

/-- The engine's turn: a BUSY engine completes the accepted command (R87), and has no transition where
the command's ranges include the register window (R243, 93 U15; log 13). An IDLE one has nothing to do (R23). -/
def engineTurn (s : State) : Host.Outcome State Fault Refusal :=
  match s.eng with
  | .idle => .next s
  | .busy =>
    match decode s.cur with
    | some i => if admits s i then exec i s else .refused .rangeInRegisterWindow
    | none => execIllegal s

/-- One transition (R6). -/
def step (s : State) : Host.Outcome State Fault Refusal :=
  match s.nextAgent with
  | .engine => engineTurn s.popTurn
  | .host => hostTurn s.popTurn

/-- The state in which the host's CMD write of the word has just been accepted and the engine moves next: PNGENC fetches
no instructions, so its next command is CUR (R22, R86; log 2). A row longer than a command word has no command. -/
def State.withFetchWord (s : State) (nbits w : Nat) : State :=
  match tableWord nbits w with
  | some c => { s.accept c with turns := .engine :: s.turns }
  | none => s

end Sys2Proof.Machine
end

