-- ==== Sys2Proof/Safety.lean ====
section
/-! DEFINITION. The terms claims are stated in: when a command's prechecks pass and its accesses complete, the invariant of
reachable states, and what counts as a safe run. -/

namespace Sys2Proof.Machine

/-- No precheck of a command with these flags raises (60_exceptions.md R202, spelled out apart from `precheck`). -/
abbrev PrecheckPasses (f : Needs) (s : State) : Prop :=
  (f.pmode = true → s.pmode ≠ 3) ∧
  (f.zmode = true → s.zmode = 0 ∨ s.zmode = 1) ∧
  (f.readsSrc = true → s.srcAddr.toNat + s.srcLen.toNat ≤ 2 ^ 32) ∧
  (f.writesDst = true → s.dstAddr.toNat + s.dstCap.toNat ≤ 2 ^ 32) ∧
  (f.readsSrc = true → f.writesDst = true →
    ¬(0 < s.srcLen.toNat ∧ 0 < s.dstCap.toNat ∧ s.srcAddr.toNat < s.dstAddr.toNat + s.dstCap.toNat ∧
      s.dstAddr.toNat < s.srcAddr.toNat + s.srcLen.toNat))

/-- The first `n` bytes of the SRC range read without a bus error (R61, R70). -/
abbrev SrcReadable (s : State) (n : Nat) : Prop :=
  ∀ k, k < n → s.platform.rdOk (s.srcAddr.toNat + k) = true

/-- An output of `n` bytes fits the DST window and writes without a bus error (R209, R210). -/
abbrev DstWritable (s : State) (n : Nat) : Prop :=
  n ≤ s.dstCap.toNat ∧ ∀ k, k < n → s.platform.wrOk (s.dstAddr.toNat + k) = true

/-- The first `n` bytes of the SRC range (R63). -/
def State.srcBytes (s : State) (n : Nat) : Bytes := s.mem.bytes s.srcAddr.toNat n

/-- The invariant of every state a run reaches: memory is canonical; while BUSY, DONE, ERRCODE, OUT_LEN and ERR_ADDR are
as acceptance left them (R86); a nonzero ERRCODE stands beside OUT_LEN 0 (R213), and a nonzero ERR_ADDR beside BUS_RD
or BUS_WR (R40); while `rst` is asserted the block holds its reset values (R230, R231). -/
abbrev Inv (s : State) : Prop :=
  s.mem.wf = true ∧
  (s.eng = .busy → s.done = false ∧ s.errcode = .none ∧ s.outLen = 0 ∧ s.errAddr = 0) ∧
  (s.errcode ≠ .none → s.outLen = 0) ∧
  (s.errcode ≠ .busRd → s.errcode ≠ .busWr → s.errAddr = 0) ∧
  (s.rst = true → s = { State.reset with
    rst := true, mem := s.mem, platform := s.platform, host := s.host, turns := s.turns, reply := s.reply
    draws := s.draws })

/-- The host moves next, and `st` is its next statement. -/
abbrev HostNext (s : State) (st : HostStmt) : Prop := s.nextAgent = .host ∧ s.host.head? = some st

/-- The host moves next with a register write `st` (or a statement that ends in one), and `rst` is not asserted. -/
abbrev PortNext (s : State) (st : HostStmt) : Prop := HostNext s st ∧ s.rst = false

/-- What every host statement that ends leaves of the model's own fields: the statement and the turn are gone, and the bus
has answered. -/
abbrev State.answered (s : State) (r : Reply) : State :=
  { s with host := s.host.tail, turns := s.turns.tail, reply := r }

/-- `a` is outside the DST window (R68). -/
abbrev OutsideDst (s : State) (a : Nat) : Prop := a < s.dstAddr.toNat ∨ s.dstAddr.toNat + s.dstCap.toNat ≤ a

/-- The flags of the table of R202; the four commands that call no precheck have none. -/
def needsOf : Instr → Option Needs
  | .nop => none
  | .crcInit => none
  | .crcByte _ => none
  | .size => none
  | .crcBuf => some { readsSrc := true, writesDst := false, pmode := false, zmode := false }
  | .pack => some { readsSrc := true, writesDst := true, pmode := true, zmode := false }
  | .zlib => some { readsSrc := true, writesDst := true, pmode := false, zmode := true }
  | .chunk => some { readsSrc := true, writesDst := true, pmode := false, zmode := false }
  | .ihdr => some { readsSrc := false, writesDst := true, pmode := false, zmode := false }
  | .idat => some { readsSrc := true, writesDst := true, pmode := true, zmode := true }
  | .iend => some { readsSrc := false, writesDst := true, pmode := false, zmode := false }
  | .sig => some { readsSrc := false, writesDst := true, pmode := false, zmode := false }
  | .encode => some { readsSrc := true, writesDst := true, pmode := true, zmode := true }

/-- No address of the 256-byte register window lies in a range that a command with these flags uses (R243, 93 U15). -/
abbrev RangesOutsideWindow (f : Needs) (s : State) : Prop :=
  ∀ a, (s.platform.regBase ++ 0#8).toNat ≤ a → a < (s.platform.regBase ++ 0#8).toNat + 256 →
    ¬(f.readsSrc = true ∧ s.srcAddr.toNat ≤ a ∧ a < s.srcAddr.toNat + s.srcLen.toNat) ∧
    ¬(f.writesDst = true ∧ s.dstAddr.toNat ≤ a ∧ a < s.dstAddr.toNat + s.dstCap.toNat)

/-- `step` has a transition for the command: a precheck ends it, or no range it uses includes the register window (R243,
93 U15; log 13). It is spelled out apart from `admits`. -/
def Admitted (s : State) (i : Instr) : Prop :=
  ∀ f, needsOf i = some f → PrecheckPasses f s → RangesOutsideWindow f s

/-- The read set of the raster for dimension `S`, as R129 writes it: the first so many bytes of the SRC range. It is spelled
out apart from `readCount`, the number of bytes the commands read. -/
abbrev rasterReads (s : State) (S : Nat) : Nat :=
  min (if s.pmode = 1 then 3 * (s.srcLen.toNat / 3) else s.srcLen.toNat) (3 * S * S)

/-- The read set of a command that reads memory: the first so many bytes of the SRC range (R70, R129). -/
def readSetOf (s : State) : Instr → Nat
  | .pack => rasterReads s s.width.toNat
  | .idat => rasterReads s s.width.toNat
  | .encode => rasterReads s (size s.srcLen.toNat)
  | .zlib => s.srcLen.toNat
  | .chunk => s.srcLen.toNat
  | .crcBuf => s.srcLen.toNat
  | .nop => 0
  | .crcInit => 0
  | .crcByte _ => 0
  | .size => 0
  | .ihdr => 0
  | .iend => 0
  | .sig => 0

/-- The raster of the whole SRC range, with the latch after the fill (R123). -/
def filled (s : State) (S : Nat) : Bytes × Bool :=
  raster (s.srcBytes s.srcLen.toNat) s.srcLen.toNat S s.pmode

/-- The output a writing command builds from `s` before `put`, and the latch its raster fill leaves (the command's rule:
R131, R147, R164 to R167, R183, R184). A command that writes no memory builds none. -/
def Builds (s : State) (out : Bytes) (latch : Bool) : Instr → Prop
  | .sig => out = pngSignature ∧ latch = s.latch
  | .ihdr => out = chunk tagIHDR (ihdrData (s.width.setWidth 32)) ∧ latch = s.latch
  | .iend => out = chunk tagIEND [] ∧ latch = s.latch
  | .chunk => out = chunk (be32 s.tag) (s.srcBytes s.srcLen.toNat) ∧ latch = s.latch
  | .zlib => zlib (s.srcBytes s.srcLen.toNat) s.zmode = some out ∧ latch = s.latch
  | .pack => out = (filled s s.width.toNat).1 ∧ latch = (filled s s.width.toNat).2
  | .idat => (∃ z, zlib (filled s s.width.toNat).1 s.zmode = some z ∧ out = chunk tagIDAT z) ∧
      latch = (filled s s.width.toNat).2
  | .encode => (∃ z, zlib (filled s (size s.srcLen.toNat)).1 s.zmode = some z ∧ out = fileOf (size s.srcLen.toNat) z) ∧
      latch = (filled s (size s.srcLen.toNat)).2
  | .nop => False
  | .crcInit => False
  | .crcByte _ => False
  | .crcBuf => False
  | .size => False

/-- WIDTH once the command has begun: ENCODE writes it before it reads memory (R184, R213). -/
def widthOf (s : State) : Instr → BitVec 16
  | .encode => BitVec.ofNat 16 (size s.srcLen.toNat)
  | .nop => s.width
  | .crcInit => s.width
  | .crcByte _ => s.width
  | .crcBuf => s.width
  | .size => s.width
  | .pack => s.width
  | .zlib => s.width
  | .chunk => s.width
  | .ihdr => s.width
  | .idat => s.width
  | .iend => s.width
  | .sig => s.width

/-- The bytes a command compresses, with the latch its raster fill leaves (R147, R166, R184); the other commands compress
nothing. -/
def compresses (s : State) : Instr → Option (Bytes × Bool)
  | .zlib => some (s.srcBytes s.srcLen.toNat, s.latch)
  | .idat => some (filled s s.width.toNat)
  | .encode => some (filled s (size s.srcLen.toNat))
  | .nop => none
  | .crcInit => none
  | .crcByte _ => none
  | .crcBuf => none
  | .size => none
  | .pack => none
  | .chunk => none
  | .ihdr => none
  | .iend => none
  | .sig => none

/-- A run of `n` steps that neither faults nor is refused. -/
def safeFor : Nat → State → Prop
  | 0, _ => True
  | n + 1, s => ∃ t, step s = .next t ∧ safeFor n t

end Sys2Proof.Machine
end

