-- ==== Sys2Proof/Certificates/Slice0/Obligations.lean ====
section
/-! DEFINITION. The statements about PNGENC, for the provers. A statement that gives a next state as `{ s with … }` is also
that command's or statement's frame: every field not named keeps its value. -/

open Sys2Proof Sys2Proof.Machine

/-! ### Encoding (30_encoding.md) -/

/-- R84, R203: the decoder takes exactly the legal words, and any other accepted word completes with ILLEGAL_CMD and does
nothing else. -/
def Obligations.LegalWordsAreTheDecodedOnes : Prop :=
  (∀ w : Word, (decode w).isSome = true ↔
    w.extractLsb' 16 16 = 0 ∧
    w.extractLsb' 0 8 ∈ ([0x00, 0x01, 0x02, 0x03, 0x10, 0x11, 0x20, 0x30, 0x31, 0x32, 0x33, 0x40, 0x41] : List Byte) ∧
    (w.extractLsb' 0 8 = 0x02 ∨ w.extractLsb' 8 8 = 0)) ∧
  (∀ s : State, s.nextAgent = .engine → s.eng = .busy → decode s.cur = none →
    step s = .next { s with
      turns := s.turns.tail, outLen := 0, errcode := .illegalCmd, errAddr := 0, done := true, eng := .idle })

/-- Decoding an encoded command gives it back, and every legal word is the encoding of the command it decodes to: no bit
of a command word is dropped. -/
def Obligations.DecodeAndEncodeAgree : Prop :=
  ∀ (i : Instr) (w : Word), decode w = some i ↔ w = encode i

/-- The words of all thirteen commands, written out from R83's map and R80's fields (bits 31:16 RSVD, 15:8 IMM8, 7:0 OP),
decode to their commands, and the reserved encodings of R85 to none. -/
def Obligations.WrittenOutWordsDecode : Prop :=
  decode 0b00000000000000000000000000000000#32 = some .nop ∧
  decode 0b00000000000000000000000000000001#32 = some .crcInit ∧
  decode 0b00000000000000000100100100000010#32 = some (.crcByte 0x49) ∧
  decode 0b00000000000000000000000000000011#32 = some .crcBuf ∧
  decode 0b00000000000000000000000000010000#32 = some .size ∧
  decode 0b00000000000000000000000000010001#32 = some .pack ∧
  decode 0b00000000000000000000000000100000#32 = some .zlib ∧
  decode 0b00000000000000000000000000110000#32 = some .chunk ∧
  decode 0b00000000000000000000000000110001#32 = some .ihdr ∧
  decode 0b00000000000000000000000000110010#32 = some .idat ∧
  decode 0b00000000000000000000000000110011#32 = some .iend ∧
  decode 0b00000000000000000000000001000000#32 = some .sig ∧
  decode 0b00000000000000000000000001000001#32 = some .encode ∧
  decode 0b00000000000000000000000100000000#32 = none ∧
  decode 0b00000000000000010000000001000001#32 = none ∧
  decode 0b00000000000000000000000000000101#32 = none

/-! ### The step and its invariant -/

/-- When the engine moves next and CUR decodes to a command the model admits, the step is that command's `exec` at the state
whose turn is taken. PNGENC has no program counter to move (R22). R243, 93 U15: a command whose prechecks pass and that
uses a SRC range or DST window which includes an address of the 256-byte register window has no transition. That U15's
`refuse` prevails over R72's bus errors in `step` is read from the opening of 93_implementation_defined.md (log 13);
what `exec` gives there is in BusReadErrorReportsTheLowestAddress and OverflowBeforeBusWriteError. -/
def Obligations.EngineTurnRunsTheDecodedCommand : Prop :=
  ∀ (s : State) (i : Instr), s.nextAgent = .engine → s.eng = .busy → decode s.cur = some i →
    (Admitted s i → step s = exec i { s with turns := s.turns.tail }) ∧
    (∀ (f : Needs) (a : Nat), needsOf i = some f → PrecheckPasses f s →
      (s.platform.regBase ++ 0#8).toNat ≤ a → a < (s.platform.regBase ++ 0#8).toNat + 256 →
      (f.readsSrc = true ∧ s.srcAddr.toNat ≤ a ∧ a < s.srcAddr.toNat + s.srcLen.toNat) ∨
        (f.writesDst = true ∧ s.dstAddr.toNat ≤ a ∧ a < s.dstAddr.toNat + s.dstCap.toNat) →
      step s = .refused .rangeInRegisterWindow)

/-- R200: an accepted command the model admits ends in success or in one error, the engine is IDLE after it, and the next
command word the host writes is accepted, whatever the first one's end; so does an accepted word that is no command. That
ONE step completes it rests on the model's choice that with no turns listed a BUSY engine moves before the host (log 1);
R7 gives only a finite delay. -/
def Obligations.EveryAcceptedCommandEndsAndTheNextIsAccepted : Prop :=
  ∀ (s : State) (w : Word), s.eng = .busy → s.rst = false → s.turns = [] → s.host.head? = some (.writeTo s.platform .cmd w) →
    (∀ i, decode s.cur = some i → Admitted s i) →
    ∃ t u, step s = .next t ∧ t.eng = .idle ∧ t.done = true ∧ (t.errcode ≠ .none → t.outLen = 0) ∧
      step t = .next u ∧ u.eng = .busy ∧ u.cur = w

/-- The invariant `Inv` holds right after reset. -/
def Obligations.ResetStateMeetsTheInvariant : Prop :=
  Inv State.reset

/-- Every step keeps the invariant: the memory's canonical form; while BUSY, DONE, ERRCODE, OUT_LEN and ERR_ADDR stay as
acceptance left them; a nonzero ERRCODE stands beside OUT_LEN 0, and a nonzero ERR_ADDR beside BUS_RD or BUS_WR; while `rst` is asserted the
block holds its reset values. -/
def Obligations.StepKeepsTheInvariant : Prop :=
  ∀ s t : State, Inv s → step s = .next t → Inv t

/-- No step changes REG_BASE, rd_ok or wr_ok: they are parameters (R8). That they are data of State is the model's choice
(log 3). -/
def Obligations.StepKeepsThePlatform : Prop :=
  ∀ s t : State, step s = .next t → t.platform = s.platform

/-! ### Reset (10_state.md R52, 70_reset_and_hazards.md) -/

/-- R52: the reset value of every register and of the internal state, with IRQ deasserted. -/
def Obligations.ResetValuesAreThoseOfTheTable : Prop :=
  let s := State.reset
  s.eng = .idle ∧ s.cur = 0x00000000 ∧ s.crcState = 0xFFFFFFFF ∧ s.latch = false ∧
  (∀ r : RegName, s.regValue (some r) = if r = .id then 0x504E4701 else 0x00000000) ∧
  s.irqEn = false ∧ s.pmode = 0 ∧ s.zmode = 0 ∧ s.ign = false ∧ s.irq = false

/-- R230 to R232: asserting `rst` and a soft reset give R52's values and leave memory as it is, except that a command they
interrupt leaves its DST window, and no byte outside it, with any value. Releasing `rst` changes nothing else. While it is asserted a write
is answered as R42 says and changes neither the block nor memory (that none takes effect is read from R230 and R231,
log 12). A read never changes them (R44). What a reset does to the model's own fields (platform, host, turns, draws and
reply) is the model's choice (log 16). -/
def Obligations.HardAndSoftResetGiveTheResetValues : Prop :=
  (∀ (s : State) (v : Word) (r : Reply) (level : Bool),
    (HostNext s (.rst true) ∧ r = .none ∧ level = true) ∨
      (PortNext s (.writeTo s.platform .ctrl v) ∧ v.getLsbD 31 = true ∧ r = .ack ∧ level = false) →
    ∃ (m : Memory) (d : Nat),
      step s = .next { State.reset with
        rst := level, mem := m, platform := s.platform, host := s.host.tail, turns := s.turns.tail, reply := r
        draws := d } ∧
      (s.eng = .idle → m = s.mem ∧ d = s.draws) ∧
      (s.eng = .busy → ∀ a, OutsideDst s a → m.read a = s.mem.read a)) ∧
  (∀ s : State, HostNext s (.rst false) → step s = .next { s.answered .none with rst := false }) ∧
  (∀ (s : State) (addr v : Word) (z : AccessSize), s.rst = true → HostNext s (.wr addr z v) →
    step s = .next (s.answered
      (if z = .word ∧ s.platform.inWindow addr.toNat = true ∧ addr.toNat % 4 = 0 then .ack else .busError))) ∧
  (∀ (s : State) (addr : Word) (z : AccessSize), HostNext s (.rd addr z) →
    ∃ r d, step s = .next { s.answered r with draws := d })

/-! ### The register port (10_state.md) -/

/-- R27: a write to CTRL without SRST sets IRQ_EN, PMODE and ZMODE while IDLE, and only IRQ_EN while BUSY. (With SRST it
is the soft reset, stated by HardAndSoftResetGiveTheResetValues.) -/
def Obligations.CtrlWriteSetsItsFields : Prop :=
  ∀ (s : State) (v : Word), PortNext s (.writeTo s.platform .ctrl v) → v.getLsbD 31 = false →
    (s.eng = .idle → step s = .next { s.answered .ack with
      irqEn := v.getLsbD 0, pmode := v.extractLsb' 1 2, zmode := v.extractLsb' 3 2 }) ∧
    (s.eng = .busy → step s = .next { s.answered .ack with irqEn := v.getLsbD 0 })

/-- R29: a write to STATUS clears DONE and IGN where it has a 1, IDLE or BUSY, and does nothing else. -/
def Obligations.StatusWriteClearsDoneAndIgn : Prop :=
  ∀ (s : State) (v : Word), PortNext s (.writeTo s.platform .status v) →
    step s = .next { s.answered .ack with
      done := if v.getLsbD 1 = true then false else s.done
      ign := if v.getLsbD 2 = true then false else s.ign }

/-- R86: a CMD write is accepted while IDLE, and ignored with IGN set while BUSY. -/
def Obligations.CmdWriteIsAcceptedWhileIdle : Prop :=
  ∀ (s : State) (w : Word), PortNext s (.writeTo s.platform .cmd w) →
    (s.eng = .busy → step s = .next { s.answered .ack with ign := true }) ∧
    (s.eng = .idle → step s = .next { s.answered .ack with
      cur := w, done := false, errcode := .none, outLen := 0, errAddr := 0, eng := .busy })

/-- R43: while IDLE a write to an operand register takes effect at once (WIDTH keeps 16 bits, R36); while BUSY it is
ignored and sets IGN. -/
def Obligations.OperandWritesTakeEffectOnlyWhileIdle : Prop :=
  ∀ (s : State) (v : Word) (r : RegName), PortNext s (.writeTo s.platform r v) →
    (s.eng = .idle →
      (r = .srcAddr → step s = .next { s.answered .ack with srcAddr := v }) ∧
      (r = .srcLen → step s = .next { s.answered .ack with srcLen := v }) ∧
      (r = .dstAddr → step s = .next { s.answered .ack with dstAddr := v }) ∧
      (r = .dstCap → step s = .next { s.answered .ack with dstCap := v }) ∧
      (r = .width → step s = .next { s.answered .ack with width := v.extractLsb' 0 16 }) ∧
      (r = .tag → step s = .next { s.answered .ack with tag := v })) ∧
    (s.eng = .busy → r ∈ [.srcAddr, .srcLen, .dstAddr, .dstCap, .width, .tag] →
      step s = .next { s.answered .ack with ign := true })

/-- R41 and the read-only registers: a write to a reserved offset, or to ID, OUT_LEN, CRC_VALUE, RLEN_LO, RLEN_HI or
ERR_ADDR, changes nothing and sets no status bit, IDLE or BUSY; a reserved offset reads 0. -/
def Obligations.ReservedAndReadOnlyRegistersIgnoreWrites : Prop :=
  ∀ (s : State) (addr v : Word), s.platform.inWindow addr.toNat = true → addr.toNat % 4 = 0 →
    (0x3C ≤ addr.toNat % 256 ∨ addr.toNat % 256 ∈ [0x00, 0x20, 0x2C, 0x30, 0x34, 0x38] →
      HostNext s (.wr addr .word v) → step s = .next (s.answered .ack)) ∧
    (0x3C ≤ addr.toNat % 256 → HostNext s (.rd addr .word) →
      ∃ d, step s = .next { s.answered (.word 0) with draws := d })

/-- R24, R25, R30 to R40, R44, R201: at which offset from REG_BASE each register stands, and what it reads while IDLE, the
error codes by their numbers. A read changes no state. -/
def Obligations.IdleReadsGiveTheRegistersValues : Prop :=
  ∀ (s : State) (r : RegName), HostNext s (.readFrom s.platform r) → s.eng = .idle →
    s.platform.regAddr r = (s.platform.regBase ++ 0#8 : Word) + (match r with
      | .id => 0x00#32 | .ctrl => 0x04#32 | .status => 0x08#32 | .cmd => 0x0C#32 | .srcAddr => 0x10#32
      | .srcLen => 0x14#32 | .dstAddr => 0x18#32 | .dstCap => 0x1C#32 | .outLen => 0x20#32 | .width => 0x24#32
      | .tag => 0x28#32 | .crcValue => 0x2C#32 | .rlenLo => 0x30#32 | .rlenHi => 0x34#32 | .errAddr => 0x38#32) ∧
    ∃ v, step s = .next (s.answered (.word v)) ∧
      (r = .id → v = 0x504E4701) ∧
      (r = .ctrl → v.getLsbD 0 = s.irqEn ∧ v.extractLsb' 1 2 = s.pmode ∧ v.extractLsb' 3 2 = s.zmode ∧
        v.extractLsb' 5 27 = 0) ∧
      (r = .status → v.getLsbD 0 = false ∧ v.getLsbD 1 = s.done ∧ v.getLsbD 2 = s.ign ∧ v.getLsbD 3 = s.xhst ∧
        v.extractLsb' 4 4 = 0 ∧ v.extractLsb' 12 20 = 0 ∧
        v.extractLsb' 8 4 = (match s.errcode with
          | .none => 0 | .illegalCmd => 1 | .illegalCfg => 2 | .range => 3 | .overlap => 4 | .busRd => 5 | .zfail => 6
          | .overflow => 7 | .busWr => 8)) ∧
      (r = .cmd → v = 0) ∧
      (r = .srcAddr → v = s.srcAddr) ∧ (r = .srcLen → v = s.srcLen) ∧
      (r = .dstAddr → v = s.dstAddr) ∧ (r = .dstCap → v = s.dstCap) ∧
      (r = .outLen → v = s.outLen) ∧ (r = .width → v.toNat = s.width.toNat) ∧ (r = .tag → v = s.tag) ∧
      (r = .crcValue → v = s.crcState ^^^ 0xFFFFFFFF) ∧ (r = .errAddr → v = s.errAddr)

/-- R44: what each register reads while BUSY. CRC_VALUE, WIDTH, RLEN_LO, RLEN_HI and STATUS.XHST read any value, so nothing
is said of theirs. A read changes no state of PNGENC; `draws` is the model's own (log 6). -/
def Obligations.BusyReadsGiveOnlyTheStableValues : Prop :=
  ∀ (s : State) (r : RegName), HostNext s (.readFrom s.platform r) → s.eng = .busy →
    ∃ v d, step s = .next { s.answered (.word v) with draws := d } ∧
      (r = .outLen ∨ r = .errAddr ∨ r = .cmd → v = 0) ∧
      (r = .status → v.getLsbD 0 = true ∧ v.getLsbD 1 = false ∧ v.getLsbD 2 = s.ign ∧ v.extractLsb' 4 28 = 0) ∧
      (r = .id → v = 0x504E4701) ∧
      (r = .ctrl → v.getLsbD 0 = s.irqEn ∧ v.extractLsb' 1 2 = s.pmode ∧ v.extractLsb' 3 2 = s.zmode ∧
        v.extractLsb' 5 27 = 0) ∧
      (r = .srcAddr → v = s.srcAddr) ∧ (r = .srcLen → v = s.srcLen) ∧
      (r = .dstAddr → v = s.dstAddr) ∧ (r = .dstCap → v = s.dstCap) ∧ (r = .tag → v = s.tag)

/-- R39: RLEN_HI and RLEN_LO read, together and exactly, the raster length of WIDTH, which is below 2^34. -/
def Obligations.RlenRegistersReadTheRasterLength : Prop :=
  ∀ (s : State) (r : RegName), HostNext s (.readFrom s.platform r) → s.eng = .idle → r = .rlenLo ∨ r = .rlenHi →
    (3 * s.width.toNat + 1) * s.width.toNat < 2 ^ 34 ∧
    ∃ v : Word, step s = .next (s.answered (.word v)) ∧
      (r = .rlenLo → v.toNat = (3 * s.width.toNat + 1) * s.width.toNat % 2 ^ 32) ∧
      (r = .rlenHi → v.toNat = (3 * s.width.toNat + 1) * s.width.toNat / 2 ^ 32)

/-- R42: a register-port access that is not an aligned 32-bit word gets an error response, reads no data, writes nothing and
changes no state. That an access outside the window, which does not reach the port, gets the same answer is the model's
reading (log 11). -/
def Obligations.NarrowOrMisalignedAccessGetsAnErrorResponse : Prop :=
  ∀ (s : State) (addr v : Word) (z : AccessSize),
    s.platform.inWindow addr.toNat = false ∨ z ≠ .word ∨ addr.toNat % 4 ≠ 0 →
    HostNext s (.wr addr z v) ∨ HostNext s (.rd addr z) → step s = .next (s.answered .busError)

/-- R215: the engine's completion raises IRQ exactly when IRQ_EN is set, and clearing DONE by W1C, accepting the next
command, or clearing IRQ_EN deasserts it. -/
def Obligations.IrqFollowsCompletionAndAcknowledgement : Prop :=
  (∀ s t : State, s.nextAgent = .engine → s.eng = .busy → step s = .next t → t.irq = s.irqEn) ∧
  (∀ (s t : State) (v : Word), PortNext s (.writeTo s.platform .status v) → v.getLsbD 1 = true → step s = .next t →
    t.irq = false) ∧
  (∀ (s t : State) (w : Word), PortNext s (.writeTo s.platform .cmd w) → s.eng = .idle → step s = .next t →
    t.irq = false) ∧
  (∀ (s t : State) (v : Word), PortNext s (.writeTo s.platform .ctrl v) → v.getLsbD 0 = false → step s = .next t →
    t.irq = false)

/-! ### The host's memory accesses (20_memory.md R60, R63, R79) -/

/-- R79: while BUSY a host store that touches the SRC range or the DST window is not admitted; every other host store
inside the address space and outside the register window writes its bytes at ascending addresses, and a store past the
address space faults (the model's choice, log 10). A byte stored in the register window is an 8-bit register access: it is not
stored, and the host gets the error response (the model's reading, log 11). -/
def Obligations.HostStoresAreRefusedInBusyRanges : Prop :=
  ∀ (s : State) (a : Word) (bs : Bytes), HostNext s (.mem a bs) →
    (2 ^ 32 < a.toNat + bs.length → step s = .fault .hostAddressPastEnd) ∧
    (a.toNat + bs.length ≤ 2 ^ 32 → s.eng = .busy →
      (∃ k, k < bs.length ∧ (s.inSrc (a.toNat + k) = true ∨ s.inDst (a.toNat + k) = true)) →
      step s = .refused .hostWriteWhileBusy) ∧
    (a.toNat + bs.length ≤ 2 ^ 32 →
      (s.eng = .busy → ∀ k, k < bs.length → s.inSrc (a.toNat + k) = false ∧ s.inDst (a.toNat + k) = false) →
      (∀ k, k < bs.length → s.platform.inWindow (a.toNat + k) = false) →
      step s = .next { s.answered .ack with mem := s.mem.store a.toNat bs }) ∧
    (a.toNat + bs.length ≤ 2 ^ 32 →
      (s.eng = .busy → ∀ k, k < bs.length → s.inSrc (a.toNat + k) = false ∧ s.inDst (a.toNat + k) = false) →
      (∃ k, k < bs.length ∧ s.platform.inWindow (a.toNat + k) = true) →
      ∃ m : Memory, step s = .next { s.answered .busError with mem := m } ∧
        (∀ x, x < a.toNat ∨ a.toNat + bs.length ≤ x ∨ s.platform.inWindow x = true → m.read x = s.mem.read x) ∧
        (s.mem.wf = true → ∀ k, k < bs.length → s.platform.inWindow (a.toNat + k) = false →
          m.read (a.toNat + k) = bs.getD k 0))

/-- R60, R79: a host read of a memory byte gives that byte, except that a byte of the DST window reads any value while
BUSY. A byte read in the register window is an 8-bit register access and gets the error response (the model's reading,
log 11). -/
def Obligations.HostLoadsReadMemory : Prop :=
  ∀ (s : State) (a : Word), HostNext s (.ld a) →
    (s.platform.inWindow a.toNat = false → s.eng = .idle ∨ s.inDst a.toNat = false →
      step s = .next (s.answered (.byte (s.mem.read a.toNat)))) ∧
    (s.platform.inWindow a.toNat = false → s.eng = .busy → s.inDst a.toNat = true →
      ∃ b d, step s = .next { s.answered (.byte b) with draws := d }) ∧
    (s.platform.inWindow a.toNat = true → step s = .next (s.answered .busError))

/-- R89: one turn of WAIT reads STATUS; the statement stays next while BUSY reads 1 and is done when it reads 0, and it
changes no state of PNGENC. -/
def Obligations.WaitReadsStatusUntilIdle : Prop :=
  ∀ s : State, HostNext s .wait →
    (s.eng = .idle → ∃ v : Word, v.getLsbD 0 = false ∧ v.getLsbD 1 = s.done ∧ step s = .next (s.answered (.word v))) ∧
    (s.eng = .busy → ∃ (v : Word) (d : Nat), v.getLsbD 0 = true ∧
      step s = .next { s with turns := s.turns.tail, reply := .word v, draws := d })

/-! ### NOP and the CRC generator (45_system.md, 40_crc.md) -/

/-- R190: NOP completes without doing anything, and is the one word 0x00000000. -/
def Obligations.NopOnlyCompletes : Prop :=
  (∀ s : State, exec .nop s =
    .next { s with outLen := 0, errcode := .none, errAddr := 0, done := true, eng := .idle }) ∧
  decode 0x00000000 = some .nop ∧ (∀ w : Word, w.extractLsb' 0 8 = 0x00 → w ≠ 0x00000000 → decode w = none)

/-- R104: CRC_INIT sets CRC_STATE to the initial value, so that CRC_VALUE reads 0, and is the one word 0x00000001. -/
def Obligations.CrcInitSetsTheInitialValue : Prop :=
  (∀ s : State, exec .crcInit s = .next { s with
    crcState := 0xFFFFFFFF, outLen := 0, errcode := .none, errAddr := 0, done := true, eng := .idle }) ∧
  (∀ s t : State, exec .crcInit s = .next t → t.crcValue = 0x00000000) ∧
  decode 0x00000001 = some .crcInit ∧ (∀ w : Word, w.extractLsb' 0 8 = 0x01 → w ≠ 0x00000001 → decode w = none)

/-- R105: CRC_BYTE folds IMM8 into CRC_STATE; every IMM8 is legal, and a nonzero RSVD is not. -/
def Obligations.CrcByteFoldsItsByte : Prop :=
  (∀ (s : State) (b : Byte), exec (.crcByte b) s = .next { s with
    crcState := crcStep s.crcState b, outLen := 0, errcode := .none, errAddr := 0, done := true, eng := .idle }) ∧
  (∀ b : Byte, decode (0#16 ++ b ++ 0x02#8) = some (.crcByte b)) ∧
  (∀ w : Word, w.extractLsb' 0 8 = 0x02 → w.extractLsb' 16 16 ≠ 0 → decode w = none) ∧
  crcStep 0xFFFFFFFF 0x49 = 0x22FDE946

/-- R106: CRC_BUF folds the SRC range into CRC_STATE and writes no memory; at the first byte, in ascending order, whose read
faults it ends with BUS_RD, its address in ERR_ADDR and the fold of the bytes before it in CRC_STATE. After BUS_RD the
DST window holds any value, as R213 says of every command (the model's reading for CRC_BUF, log 7). -/
def Obligations.CrcBufFoldsTheSrcRange : Prop :=
  ∀ s : State, s.srcAddr.toNat + s.srcLen.toNat ≤ 2 ^ 32 →
    (SrcReadable s s.srcLen.toNat → exec .crcBuf s = .next { s with
      crcState := crcRaw s.crcState (s.srcBytes s.srcLen.toNat)
      outLen := 0, errcode := .none, errAddr := 0, done := true, eng := .idle }) ∧
    (∀ k, k < s.srcLen.toNat → s.platform.rdOk (s.srcAddr.toNat + k) = false → SrcReadable s k →
      ∃ (m : Memory) (d : Nat), exec .crcBuf s = .next { s with
        crcState := crcRaw s.crcState (s.srcBytes k), mem := m, draws := d
        outLen := 0, errcode := .busRd, errAddr := BitVec.ofNat 32 (s.srcAddr.toNat + k), done := true, eng := .idle } ∧
        ∀ a, OutsideDst s a → m.read a = s.mem.read a)

/-- R102: `crc_raw` folds the bytes first byte first, `crc32` is its complement from the initial value, the CRC-32 of the
empty sequence is 0, and folding two sequences one after the other folds their concatenation. -/
def Obligations.CrcFoldsByteSequences : Prop :=
  (∀ c : Word, crcRaw c [] = c) ∧
  (∀ (c : Word) (b : Byte) (bs : Bytes), crcRaw c (b :: bs) = crcRaw (crcStep c b) bs) ∧
  (∀ bs : Bytes, crc32 bs = crcRaw 0xFFFFFFFF bs ^^^ 0xFFFFFFFF) ∧ crc32 [] = 0x00000000 ∧
  (∀ (c : Word) (a b : Bytes), crcRaw (crcRaw c a) b = crcRaw c (a ++ b))

/-- R101: the 256-entry table `T[n] = crc_step(0, n)` gives the same function as the shift register. -/
def Obligations.CrcTableFormEqualsTheShiftRegister : Prop :=
  ∀ (c : Word) (b : Byte),
    crcStep c b = (c >>> 8) ^^^ crcStep 0 ((c ^^^ b.setWidth 32).extractLsb' 0 8)

/-! ### Size derivation and the scanline packer (41_scanline.md) -/

/-- R120: `size(N)` is the smallest integer whose square reaches `ceil_div(N, 3)`. -/
def Obligations.SizeIsTheSmallestDimension : Prop :=
  ∀ N : Nat, (N + 2) / 3 ≤ size N * size N ∧ ∀ S : Nat, (N + 2) / 3 ≤ S * S → size N ≤ S

/-- R121: `size(N)` is the smallest S with `S*S*3 >= N`, it is at most 37838 for every SRC_LEN, and the boundary values hold. -/
def Obligations.SizeHoldsTheInputAndFitsWidth : Prop :=
  (∀ N : Nat, N ≤ size N * size N * 3 ∧ ∀ S : Nat, N ≤ S * S * 3 → size N ≤ S) ∧
  (∀ N : Nat, N ≤ 2 ^ 32 - 1 → size N ≤ 37838) ∧ size (2 ^ 32 - 1) = 37838 ∧
  size 0 = 0 ∧ size 3 = 1 ∧ size 4 = 2 ∧ size 27 = 3

/-- R130: SIZE writes the dimension of SRC_LEN to WIDTH, exactly, and reads and writes nothing else; it is the one word
0x00000010. -/
def Obligations.SizeWritesWidth : Prop :=
  (∀ s : State, ∃ W : BitVec 16, W.toNat = size s.srcLen.toNat ∧ exec .size s = .next { s with
    width := W, outLen := 0, errcode := .none, errAddr := 0, done := true, eng := .idle }) ∧
  decode 0x00000010 = some .size ∧ (∀ w : Word, w.extractLsb' 0 8 = 0x10 → w ≠ 0x00000010 → decode w = none)

/-- R123: the raster's bytes. In the three modes every scanline begins with filter byte 0, and its byte at input offset `o`
is `in[o]` inside the mode's bounds and 0 outside them: `o < N` in modes 0 and 2 (R124, R126), the whole pixels of the
input in mode 1 (R125). Its length is `(3S+1)*S`, whatever the input. -/
def Obligations.RasterBytesFollowTheMode : Prop :=
  ∀ (inp : Bytes) (N S : Nat) (m : BitVec 2), m ≠ 3 →
    (raster inp N S m).1.length = (3 * S + 1) * S ∧
    ∀ i q, i < S → q < 3 * S →
      (raster inp N S m).1.getD (i * (3 * S + 1)) 0 = 0 ∧
      (raster inp N S m).1.getD (i * (3 * S + 1) + 1 + q) 0 =
        if 3 * S * i + q < (if m = 1 then 3 * (N / 3) else N) then inp.getD (3 * S * i + q) 0 else 0

/-- R127: modes 0 and 2 produce identical raster bytes for every input; they differ only in the latch. -/
def Obligations.ModesZeroAndTwoFillTheSameBytes : Prop :=
  ∀ (inp : Bytes) (N S : Nat), (raster inp N S 0).1 = (raster inp N S 2).1

/-- R124 to R128: the latch after a fill is 1 in modes 0 and 1 exactly when `S > 0` and `N < 3*S*S`, and 0 in mode 2. -/
def Obligations.LatchTellsWhetherTheInputEnded : Prop :=
  ∀ (inp : Bytes) (N S : Nat),
    (raster inp N S 0).2 = decide (0 < S ∧ N < 3 * S * S) ∧
    (raster inp N S 1).2 = decide (0 < S ∧ N < 3 * S * S) ∧
    (raster inp N S 2).2 = false

/-- R129: the raster depends on no input byte outside its read set. -/
def Obligations.RasterReadsOnlyItsReadSet : Prop :=
  ∀ (a b : Bytes) (N S : Nat) (m : BitVec 2), m ≠ 3 →
    (∀ k, k < min (if m = 1 then 3 * (N / 3) else N) (3 * S * S) → a.getD k 0 = b.getD k 0) →
    raster a N S m = raster b N S m

/-- R131: PACK writes the raster of the SRC range for WIDTH and PMODE to the DST window, with OUT_LEN its length and XHST
the latch after the fill (LATCH too, R47). -/
def Obligations.PackWritesTheRaster : Prop :=
  ∀ s : State, PrecheckPasses { readsSrc := true, writesDst := true, pmode := true, zmode := false } s →
    SrcReadable s (min (if s.pmode = 1 then 3 * (s.srcLen.toNat / 3) else s.srcLen.toNat) (3 * s.width.toNat * s.width.toNat)) →
    DstWritable s ((3 * s.width.toNat + 1) * s.width.toNat) →
    exec .pack s = .next { s with
      latch := (filled s s.width.toNat).2, xhst := (filled s s.width.toNat).2
      mem := s.mem.store s.dstAddr.toNat (filled s s.width.toNat).1
      outLen := BitVec.ofNat 32 ((3 * s.width.toNat + 1) * s.width.toNat)
      errcode := .none, errAddr := 0, done := true, eng := .idle }

/-! ### zlib (42_zlib.md) -/

/-- R148: in both modes every zlib stream the block makes is the mode's header, a DEFLATE body that inflates to exactly the
input, and the big-endian Adler-32 of the input. A stream IDAT and ENCODE make inflates to `(3S + 1) * S` bytes.
In DEFAULT mode this holds because the model holds the open compressor to law L2 (log 5). -/
def Obligations.ZlibBodyInflatesToTheInput : Prop :=
  (∀ (d out : Bytes) (z : BitVec 2), z = 0 ∨ z = 1 → zlib d z = some out →
    ∃ body : Bytes, out = [0x78, if z = 1 then 0x01 else 0x9C] ++ body ++ be32 (adler32 d) ∧ inflate body = some d) ∧
  (∀ (s : State) (S : Nat) (out : Bytes) (z : BitVec 2), z = 0 ∨ z = 1 → zlib (filled s S).1 z = some out →
    ∃ body r : Bytes, out = [0x78, if z = 1 then 0x01 else 0x9C] ++ body ++ be32 (adler32 r) ∧
      inflate body = some r ∧ r.length = (3 * S + 1) * S)

/-- R146: the length of a STORED stream, and the 11 bytes of the empty input's. R142: Adler-32 is two sums modulo 65521: one
plus the bytes, and the sum of those running sums. -/
def Obligations.StoredStreamLength : Prop :=
  (∀ d : Bytes, ∃ out, zlib d 1 = some out ∧
    out.length = 2 + 5 * max 1 ((d.length + 65534) / 65535) + d.length + 4) ∧
  zlib [] 1 = some [0x78, 0x01, 0x01, 0x00, 0x00, 0xFF, 0xFF, 0x00, 0x00, 0x00, 0x01] ∧
  (∀ d : Bytes, (adler32 d).toNat =
    (((List.range d.length).map fun k => 1 + ((d.take (k + 1)).map BitVec.toNat).sum).sum % 65521) * 65536 +
      (1 + (d.map BitVec.toNat).sum) % 65521) ∧
  adler32 [0x57, 0x69, 0x6B, 0x69, 0x70, 0x65, 0x64, 0x69, 0x61] = 0x11E60398

/-- R147: when the compressor gives a stream (in STORED mode it always does), ZLIB writes it to the DST window. -/
def Obligations.ZlibWritesTheStream : Prop :=
  ∀ (s : State) (out : Bytes), PrecheckPasses { readsSrc := true, writesDst := true, pmode := false, zmode := true } s →
    SrcReadable s s.srcLen.toNat → zlib (s.srcBytes s.srcLen.toNat) s.zmode = some out → DstWritable s out.length →
    exec .zlib s = .next { s with
      mem := s.mem.store s.dstAddr.toNat out, outLen := BitVec.ofNat 32 out.length
      errcode := .none, errAddr := 0, done := true, eng := .idle }

/-- R144, R166, R184, R208, R213: in DEFAULT mode ZLIB, IDAT and ENCODE compress their bytes to nothing, and then end with
ZFAIL, ENCODE with WIDTH written and CRC_STATE and XHST kept; or to the stream `78 9C`, a body that inflates to those bytes
and their Adler-32, and then end as the output built from it fits the DST window: written there with its length in
OUT_LEN, or OVERFLOW. No value of the open compressor is used. (LATCH after ZFAIL is the model's reading, log 8.) -/
def Obligations.DefaultModeFailsOrInflates : Prop :=
  ∀ (i : Instr) (f : Needs) (s : State) (d : Bytes) (l : Bool), s.zmode = 0 → needsOf i = some f →
    compresses s i = some (d, l) → PrecheckPasses f s → SrcReadable s (readSetOf s i) →
    (∀ k, k < s.dstCap.toNat → s.platform.wrOk (s.dstAddr.toNat + k) = true) →
    (zlib d 0 = none ∧ ∃ (m : Memory) (n : Nat),
      exec i s = .next { s with
        width := widthOf s i, latch := l, mem := m, draws := n
        outLen := 0, errcode := .zfail, errAddr := 0, done := true, eng := .idle } ∧
      ∀ a, OutsideDst s a → m.read a = s.mem.read a) ∨
    ∃ (body out : Bytes) (t : State), inflate body = some d ∧
      zlib d 0 = some ([0x78, 0x9C] ++ body ++ be32 (adler32 d)) ∧ Builds s out l i ∧
      exec i s = .next t ∧ t.eng = .idle ∧ t.done = true ∧
      ((s.dstCap.toNat < out.length ∧ t.errcode = .overflow ∧ t.outLen = 0) ∨
        (out.length ≤ s.dstCap.toNat ∧ t.errcode = .none ∧ t.outLen = BitVec.ofNat 32 out.length ∧
          t.mem = s.mem.store s.dstAddr.toNat out))

/-- R151 to R153: inflate decodes Huffman blocks. The fixed codes of the bytes where R152's code lengths change, each
in a final block of its own (header bits 1, 1, 0, the code most significant bit first, the seven zero bits of the end of
block); V-Z-7; two overlapping copies; a dynamic block with copies; and what it refuses: BTYPE 3, a copy from before the start, a byte after the stream. Each base
of LENGTH and DIST is the one before it and its extra bits' span further on, but for LENGTH's last. -/
def Obligations.InflateDecodesHuffmanBlocks : Prop :=
  (∀ b ∈ ([0, 143, 144, 255] : Bytes),
    let n := 3 + 8 * (if b.toNat < 144 then (BitVec.ofNat 8 (0x30 + b.toNat)).reverse.toNat
      else (BitVec.ofNat 9 (0x190 + (b.toNat - 144))).reverse.toNat)
    inflate [BitVec.ofNat 8 n, BitVec.ofNat 8 (n / 256), BitVec.ofNat 8 (n / 65536)] = some [b]) ∧
  inflate [0x63, 0xE0, 0x12, 0x91, 0x03, 0x00] = some [0x00, 0x0A, 0x14, 0x1E] ∧
  inflate [0x4B, 0x4C, 0x4A, 0x4E, 0x84, 0x22, 0x00] =
    some [0x61, 0x62, 0x63, 0x61, 0x62, 0x63, 0x61, 0x62, 0x63, 0x61, 0x62] ∧
  inflate [0x4B, 0x4C, 0x1C, 0xF1, 0x00, 0x00] = some (List.replicate 259 0x61) ∧
  inflate
      [0x45, 0x8A, 0xC9, 0x0D, 0x00, 0x00, 0x08, 0x83, 0x66, 0x85, 0xFD, 0x87, 0x30, 0x35, 0x1E, 0xBC, 0x5A, 0x02, 0x48,
      0x30, 0x30, 0x08, 0xFE, 0xBC, 0x62, 0x8D, 0xF0, 0x41, 0xC7, 0x77, 0x28] =
    some (
      ([(2, 0x61), (1, 0x62), (5, 0x61), (5, 0x62), (8, 0x61), (1, 0x62), (2, 0x61), (1, 0x62), (7, 0x61), (1, 0x62), (3,
      0x61), (1, 0x62), (5, 0x61), (2, 0x62), (6, 0x61), (1, 0x62), (1, 0x61), (1, 0x62), (4, 0x61), (1, 0x62), (8,
      0x61), (1, 0x62), (2, 0x61), (2, 0x62), (9, 0x61)] : List (Nat × Byte)).flatMap fun r => List.replicate r.1 r.2) ∧
  inflate [0x07] = none ∧
  inflate [0x03, 0x02, 0x00] = none ∧
  inflate [0x63, 0xE0, 0x12, 0x91, 0x03, 0x00, 0x00] = none ∧
  (∀ i, i < 27 → (lengthTable.getD (i + 1) (0, 0)).1 =
    (lengthTable.getD i (0, 0)).1 + 2 ^ (lengthTable.getD i (0, 0)).2) ∧
  lengthTable.getD 0 (0, 0) = (3, 0) ∧ lengthTable.getD 27 (0, 0) = (227, 5) ∧ lengthTable.getD 28 (0, 0) = (258, 0) ∧
  lengthTable.length = 29 ∧
  (∀ i, i < 29 → (distTable.getD (i + 1) (0, 0)).1 = (distTable.getD i (0, 0)).1 + 2 ^ (distTable.getD i (0, 0)).2) ∧
  distTable.getD 0 (0, 0) = (1, 0) ∧ distTable.getD 29 (0, 0) = (24577, 13) ∧ distTable.length = 30

/-- R208: STORED mode never raises ZFAIL, in any command. -/
def Obligations.StoredModeNeverFails : Prop :=
  ∀ (i : Instr) (s t : State), s.zmode = 1 → exec i s = .next t → t.errcode ≠ .zfail

/-! ### Chunks (43_chunk.md) -/

/-- R160, R103: a chunk is the big-endian length of its data, its tag, its data, and the big-endian CRC-32 of tag and data;
its length is 12 more than the data's. -/
def Obligations.ChunkFrameIsLengthTagDataCrc : Prop :=
  ∀ t d : Bytes, t.length = 4 → d.length < 2 ^ 32 →
    (chunk t d).length = 12 + d.length ∧
    (((chunk t d).take 4).foldl (fun n b => n * 256 + b.toNat) 0) = d.length ∧
    ((chunk t d).drop 4).take 4 = t ∧ ((chunk t d).drop 8).take d.length = d ∧
    (((chunk t d).drop (8 + d.length)).foldl (fun n b => n * 256 + b.toNat) 0) =
      (crc32 (((chunk t d).drop 4).take (4 + d.length))).toNat

/-- R164, R161: CHUNK frames the SRC range with the four bytes of TAG, TAG[31:24] first, and leaves the chunk's CRC state. -/
def Obligations.ChunkWritesTheFramedSrcRange : Prop :=
  ∀ s : State, PrecheckPasses { readsSrc := true, writesDst := true, pmode := false, zmode := false } s →
    SrcReadable s s.srcLen.toNat → DstWritable s (12 + s.srcLen.toNat) →
    let t := [s.tag.extractLsb' 24 8, s.tag.extractLsb' 16 8, s.tag.extractLsb' 8 8, s.tag.extractLsb' 0 8]
    let d := s.srcBytes s.srcLen.toNat
    exec .chunk s = .next { s with
      crcState := crcRaw 0xFFFFFFFF (t ++ d)
      mem := s.mem.store s.dstAddr.toNat (chunk t d), outLen := BitVec.ofNat 32 (12 + s.srcLen.toNat)
      errcode := .none, errAddr := 0, done := true, eng := .idle }

/-- R165, R163: IHDR writes the 25-byte IHDR chunk of WIDTH and leaves its CRC state. -/
def Obligations.IhdrWritesTheHeaderChunk : Prop :=
  ∀ s : State, s.dstAddr.toNat + s.dstCap.toNat ≤ 2 ^ 32 → DstWritable s 25 →
    let S := [0, 0, s.width.extractLsb' 8 8, s.width.extractLsb' 0 8]
    let d := S ++ S ++ [8, 2, 0, 0, 0]
    exec .ihdr s = .next { s with
      crcState := crcRaw 0xFFFFFFFF ([0x49, 0x48, 0x44, 0x52] ++ d)
      mem := s.mem.store s.dstAddr.toNat (chunk [0x49, 0x48, 0x44, 0x52] d), outLen := 25
      errcode := .none, errAddr := 0, done := true, eng := .idle }

/-- R166: IDAT packs the SRC range with WIDTH, compresses the raster, frames the stream as the IDAT chunk, and leaves its CRC
state and the latch in XHST (LATCH too, R47). -/
def Obligations.IdatWritesTheCompressedRaster : Prop :=
  ∀ (s : State) (z : Bytes), PrecheckPasses { readsSrc := true, writesDst := true, pmode := true, zmode := true } s →
    SrcReadable s (min (if s.pmode = 1 then 3 * (s.srcLen.toNat / 3) else s.srcLen.toNat) (3 * s.width.toNat * s.width.toNat)) →
    zlib (filled s s.width.toNat).1 s.zmode = some z → DstWritable s (12 + z.length) →
    exec .idat s = .next { s with
      latch := (filled s s.width.toNat).2, xhst := (filled s s.width.toNat).2
      crcState := crcRaw 0xFFFFFFFF ([0x49, 0x44, 0x41, 0x54] ++ z)
      mem := s.mem.store s.dstAddr.toNat (chunk [0x49, 0x44, 0x41, 0x54] z), outLen := BitVec.ofNat 32 (12 + z.length)
      errcode := .none, errAddr := 0, done := true, eng := .idle }

/-- R167, R103: IEND writes the same 12 bytes every time and leaves CRC_STATE 0x51BD9F7D. -/
def Obligations.IendWritesTheEndChunk : Prop :=
  ∀ s : State, s.dstAddr.toNat + s.dstCap.toNat ≤ 2 ^ 32 → DstWritable s 12 →
    exec .iend s = .next { s with
      crcState := 0x51BD9F7D
      mem := s.mem.store s.dstAddr.toNat
        [0x00, 0x00, 0x00, 0x00, 0x49, 0x45, 0x4E, 0x44, 0xAE, 0x42, 0x60, 0x82]
      outLen := 12, errcode := .none, errAddr := 0, done := true, eng := .idle }

/-- R168: a successful CHUNK, IHDR, IDAT, IEND or ENCODE leaves CRC_VALUE reading the CRC that ends the last chunk it built,
which is the last four bytes of its output; one that ends in error does not write CRC_STATE. -/
def Obligations.CrcValueIsTheLastChunksCrc : Prop :=
  ∀ (i : Instr) (s t : State), i ∈ [.chunk, .ihdr, .idat, .iend, .encode] → exec i s = .next t →
    (t.errcode ≠ .none → t.crcState = s.crcState) ∧
    (t.errcode = .none → ∃ (out : Bytes) (l : Bool), Builds s out l i ∧ out.drop (out.length - 4) = be32 t.crcValue)

/-! ### Files (44_file.md) -/

/-- R183, R180: SIG writes the eight signature bytes and touches no other register. -/
def Obligations.SigWritesTheSignature : Prop :=
  ∀ s : State, s.dstAddr.toNat + s.dstCap.toNat ≤ 2 ^ 32 → DstWritable s 8 →
    exec .sig s = .next { s with
      mem := s.mem.store s.dstAddr.toNat [0x89, 0x50, 0x4E, 0x47, 0x0D, 0x0A, 0x1A, 0x0A]
      outLen := 8, errcode := .none, errAddr := 0, done := true, eng := .idle }

/-- R184: ENCODE writes the PNG file of the SRC range (R181), with WIDTH the derived dimension, XHST the latch after the
fill (LATCH too, R47) and CRC_STATE that of the IEND chunk. -/
def Obligations.EncodeWritesThePngFile : Prop :=
  ∀ (s : State) (f : Bytes) (S : Nat) (l : Bool),
    PrecheckPasses { readsSrc := true, writesDst := true, pmode := true, zmode := true } s →
    SrcReadable s (min (if s.pmode = 1 then 3 * (s.srcLen.toNat / 3) else s.srcLen.toNat)
      (3 * size s.srcLen.toNat * size s.srcLen.toNat)) →
    pngFile (s.srcBytes s.srcLen.toNat) s.srcLen.toNat s.pmode s.zmode = some (f, S, l) →
    DstWritable s f.length →
    S = size s.srcLen.toNat ∧ exec .encode s = .next { s with
      width := BitVec.ofNat 16 S, latch := l, xhst := l, crcState := 0x51BD9F7D
      mem := s.mem.store s.dstAddr.toNat f, outLen := BitVec.ofNat 32 f.length
      errcode := .none, errAddr := 0, done := true, eng := .idle }

/-- R181, R185, R187: the file is the signature, the IHDR chunk with dimension S twice, the IDAT chunk that frames the stream,
and the IEND chunk, 57 bytes more than the stream. R169: the CRC field of the IHDR and of the IDAT chunk is the CRC-32 of
the tag and data that stand before it. -/
def Obligations.FileLayoutIsFixed : Prop :=
  ∀ (S : Nat) (z : Bytes), S < 2 ^ 32 → z.length < 2 ^ 32 →
    (fileOf S z).length = 57 + z.length ∧
    (fileOf S z).take 8 = [0x89, 0x50, 0x4E, 0x47, 0x0D, 0x0A, 0x1A, 0x0A] ∧
    ((fileOf S z).drop 8).take 8 = [0x00, 0x00, 0x00, 0x0D, 0x49, 0x48, 0x44, 0x52] ∧
    (((fileOf S z).drop 16).take 4).foldl (fun n b => n * 256 + b.toNat) 0 = S ∧
    (((fileOf S z).drop 20).take 4).foldl (fun n b => n * 256 + b.toNat) 0 = S ∧
    ((fileOf S z).drop 24).take 5 = [8, 2, 0, 0, 0] ∧
    (((fileOf S z).drop 33).take 4).foldl (fun n b => n * 256 + b.toNat) 0 = z.length ∧
    ((fileOf S z).drop 37).take 4 = [0x49, 0x44, 0x41, 0x54] ∧
    ((fileOf S z).drop 41).take z.length = z ∧
    (((fileOf S z).drop 29).take 4).foldl (fun n b => n * 256 + b.toNat) 0 =
      (crc32 (((fileOf S z).drop 12).take 17)).toNat ∧
    (((fileOf S z).drop (41 + z.length)).take 4).foldl (fun n b => n * 256 + b.toNat) 0 =
      (crc32 (((fileOf S z).drop 37).take (4 + z.length))).toNat ∧
    (fileOf S z).drop (45 + z.length) =
      [0x00, 0x00, 0x00, 0x00, 0x49, 0x45, 0x4E, 0x44, 0xAE, 0x42, 0x60, 0x82]

/-- R186: ENCODE of the empty input in STORED mode succeeds in every legal PMODE with the 68 bytes of V-ENC-1, WIDTH 0 and
XHST 0, and reads nothing. -/
def Obligations.EncodeOfTheEmptyInput : Prop :=
  ∀ s : State, s.srcLen = 0 → s.pmode ≠ 3 → s.zmode = 1 → s.dstAddr.toNat + s.dstCap.toNat ≤ 2 ^ 32 → DstWritable s 68 →
    exec .encode s = .next { s with
      width := 0, latch := false, xhst := false, crcState := 0x51BD9F7D
      mem := s.mem.store s.dstAddr.toNat
        ([0x89, 0x50, 0x4E, 0x47, 0x0D, 0x0A, 0x1A, 0x0A, 0x00, 0x00, 0x00, 0x0D, 0x49, 0x48, 0x44, 0x52] ++
          [0x00, 0x00, 0x00, 0x00, 0x00, 0x00, 0x00, 0x00, 0x08, 0x02, 0x00, 0x00, 0x00, 0xB4, 0xE9, 0xEB, 0x45] ++
          [0x00, 0x00, 0x00, 0x0B, 0x49, 0x44, 0x41, 0x54, 0x78, 0x01, 0x01, 0x00, 0x00, 0xFF, 0xFF, 0x00, 0x00, 0x00] ++
          [0x01, 0x89, 0xD6, 0xAE, 0x5F, 0x00, 0x00, 0x00, 0x00, 0x49, 0x45, 0x4E, 0x44, 0xAE, 0x42, 0x60, 0x82])
      outLen := 68, errcode := .none, errAddr := 0, done := true, eng := .idle }

/-! ### Errors and frames (60_exceptions.md, 20_memory.md) -/

/-- R202, R204, R205, R206: a precheck error ends the command in the written order with its code, and changes no memory and
no register but those of the error completion. -/
def Obligations.PrecheckErrorsComeInOrder : Prop :=
  ∀ (i : Instr) (f : Needs) (s : State) (e : ErrCode), needsOf i = some f →
    (let cfg := (f.pmode = true ∧ s.pmode = 3) ∨ (f.zmode = true ∧ (s.zmode = 2 ∨ s.zmode = 3))
     let rng := (f.readsSrc = true ∧ 2 ^ 32 < s.srcAddr.toNat + s.srcLen.toNat) ∨
      (f.writesDst = true ∧ 2 ^ 32 < s.dstAddr.toNat + s.dstCap.toNat)
     let ovl := f.readsSrc = true ∧ f.writesDst = true ∧ 0 < s.srcLen.toNat ∧ 0 < s.dstCap.toNat ∧
      s.srcAddr.toNat < s.dstAddr.toNat + s.dstCap.toNat ∧ s.dstAddr.toNat < s.srcAddr.toNat + s.srcLen.toNat
     (cfg ∧ e = .illegalCfg) ∨ (¬cfg ∧ rng ∧ e = .range) ∨ (¬cfg ∧ ¬rng ∧ ovl ∧ e = .overlap)) →
    exec i s = .next { s with outLen := 0, errcode := e, errAddr := 0, done := true, eng := .idle }

/-- R207: a command that reads memory into its output ends with BUS_RD at the lowest faulting address of its read set. ENCODE
has written WIDTH by then (R213). An address of the 256-byte register window never reads (R72); `step`
admits no command whose ranges include the window (log 13). -/
def Obligations.BusReadErrorReportsTheLowestAddress : Prop :=
  (∀ (p : Platform) (a : Nat), (p.regBase ++ 0#8).toNat ≤ a → a < (p.regBase ++ 0#8).toNat + 256 → p.rdOk a = false) ∧
  ∀ (i : Instr) (f : Needs) (s : State) (k : Nat), i ∈ [.pack, .zlib, .chunk, .idat, .encode] → needsOf i = some f →
    PrecheckPasses f s → k < readSetOf s i → s.platform.rdOk (s.srcAddr.toNat + k) = false → SrcReadable s k →
    ∃ (m : Memory) (d : Nat), exec i s = .next { s with
      width := widthOf s i, mem := m, draws := d
      outLen := 0, errcode := .busRd, errAddr := BitVec.ofNat 32 (s.srcAddr.toNat + k), done := true, eng := .idle } ∧
      ∀ a, OutsideDst s a → m.read a = s.mem.read a

/-- R209, R210, R211: an output longer than DST_CAP ends the command with OVERFLOW, before any BUS_WR; one that fits ends
with BUS_WR at its lowest faulting address. CRC_STATE and XHST keep their values. (LATCH, which nothing shows before the
next fill, holds this fill's latch: the model's reading, log 8.) An address of the register window never writes (R72);
`step` admits no command whose ranges include the window (log 13). -/
def Obligations.OverflowBeforeBusWriteError : Prop :=
  (∀ (p : Platform) (a : Nat), (p.regBase ++ 0#8).toNat ≤ a → a < (p.regBase ++ 0#8).toNat + 256 → p.wrOk a = false) ∧
  ∀ (i : Instr) (f : Needs) (s : State) (out : Bytes) (l : Bool), needsOf i = some f → Builds s out l i →
    PrecheckPasses f s → SrcReadable s (readSetOf s i) →
    (s.dstCap.toNat < out.length →
      ∃ (m : Memory) (d : Nat), exec i s = .next { s with
        width := widthOf s i, latch := l, mem := m, draws := d
        outLen := 0, errcode := .overflow, errAddr := 0, done := true, eng := .idle } ∧
        ∀ a, OutsideDst s a → m.read a = s.mem.read a) ∧
    (∀ k, out.length ≤ s.dstCap.toNat → k < out.length → s.platform.wrOk (s.dstAddr.toNat + k) = false →
      (∀ j, j < k → s.platform.wrOk (s.dstAddr.toNat + j) = true) →
      ∃ (m : Memory) (d : Nat), exec i s = .next { s with
        width := widthOf s i, latch := l, mem := m, draws := d
        outLen := 0, errcode := .busWr, errAddr := BitVec.ofNat 32 (s.dstAddr.toNat + k), done := true, eng := .idle } ∧
        ∀ a, OutsideDst s a → m.read a = s.mem.read a)

/-- R71, R63: a successful writing command leaves its output in memory byte by byte from DST_ADDR on, its length in OUT_LEN, and
every other byte of memory as it was. -/
def Obligations.OutputReadsBackFromMemory : Prop :=
  ∀ (i : Instr) (f : Needs) (s : State) (out : Bytes) (l : Bool), s.mem.wf = true → needsOf i = some f →
    Builds s out l i → PrecheckPasses f s → SrcReadable s (readSetOf s i) → DstWritable s out.length →
    ∃ t, exec i s = .next t ∧ t.errcode = .none ∧ t.outLen.toNat = out.length ∧ t.mem.wf = true ∧
      (∀ k, k < out.length → t.mem.read (s.dstAddr.toNat + k) = out.getD k 0) ∧
      (∀ a, a < s.dstAddr.toNat ∨ s.dstAddr.toNat + out.length ≤ a → t.mem.read a = s.mem.read a)

/-- R71: whatever command word the engine completes, no byte outside the DST window is ever written; after success only the
output's bytes are; after codes 1 to 4 none is. -/
def Obligations.EngineWritesOnlyTheDstWindow : Prop :=
  ∀ s t : State, s.nextAgent = .engine → s.eng = .busy → step s = .next t →
    (∀ a, OutsideDst s a → t.mem.read a = s.mem.read a) ∧
    (t.errcode = .none →
      ∀ a, a < s.dstAddr.toNat ∨ s.dstAddr.toNat + t.outLen.toNat ≤ a → t.mem.read a = s.mem.read a) ∧
    (t.errcode ∈ [.illegalCmd, .illegalCfg, .range, .overlap] → t.mem = s.mem)

/-- The engine's transition changes no register but those of section 10's table and the completion: the host's operand and
control registers, TAG, IGN, CUR and the surroundings keep their values for every command word. -/
def Obligations.EngineKeepsTheHostsRegisters : Prop :=
  ∀ s t : State, s.nextAgent = .engine → s.eng = .busy → step s = .next t →
    t.irqEn = s.irqEn ∧ t.pmode = s.pmode ∧ t.zmode = s.zmode ∧ t.ign = s.ign ∧ t.srcAddr = s.srcAddr ∧
    t.srcLen = s.srcLen ∧ t.dstAddr = s.dstAddr ∧ t.dstCap = s.dstCap ∧ t.tag = s.tag ∧ t.cur = s.cur ∧
    t.platform = s.platform ∧ t.host = s.host ∧ t.turns = s.turns.tail ∧ t.reply = s.reply ∧ t.rst = s.rst

/-- R213 and section 10's table: WIDTH changes only by SIZE and ENCODE, CRC_STATE only by the CRC commands and a successful
chunk-producing command, XHST only by a successful PACK, IDAT or ENCODE; after every error OUT_LEN is 0, and ERR_ADDR is 0
unless the code is BUS_RD or BUS_WR. (That LATCH changes only by PACK, IDAT and ENCODE is the model's reading, log 8.) -/
def Obligations.ResultRegistersChangeOnlyByTheirCommands : Prop :=
  ∀ (i : Instr) (s t : State), exec i s = .next t →
    t.done = true ∧ t.eng = .idle ∧
    (i ∉ [.size, .encode] → t.width = s.width) ∧
    ((∀ b, i ≠ .crcByte b) → i ∉ [.crcInit, .crcBuf] →
      t.errcode ≠ .none ∨ i ∉ [.chunk, .ihdr, .idat, .iend, .encode] → t.crcState = s.crcState) ∧
    (t.errcode ≠ .none ∨ i ∉ [.pack, .idat, .encode] → t.xhst = s.xhst) ∧
    (i ∉ [.pack, .idat, .encode] → t.latch = s.latch) ∧
    (t.errcode ≠ .none → t.outLen = 0) ∧
    (t.errcode ≠ .busRd → t.errcode ≠ .busWr → t.errAddr = 0)
end

