-- ==== Sys2Proof/Laws/Memory.lean ====
section
/-! SUPPORT. The laws of memory: read after write, frames, and that every operation keeps the canonical form. -/

namespace Sys2Proof.Machine

/-! ### One byte -/

/-- Every key of `m` is above `a`. -/
def Memory.above (m : Memory) (a : Nat) : Prop := ∀ c ∈ m, a < c.1

theorem Memory.wf_cons {k : Nat} {b : Byte} {m : Memory} :
    Memory.wf ((k, b) :: m) = true ↔ k < addressSpace ∧ b ≠ unlistedByte ∧ Memory.above m k ∧ Memory.wf m = true := by
  simp [Memory.wf, Memory.above, and_assoc]

theorem Memory.read_above {m : Memory} {k a : Nat} (h : Memory.above m k) (ha : a ≤ k) : m.read a = unlistedByte := by
  induction m with
  | nil => rfl
  | cons c m ih =>
    have hc := h c (by simp)
    simp only [Memory.read]
    rw [if_neg (by omega)]
    exact ih fun d hd => h d (by simp [hd])

theorem Memory.read_list_same {m : Memory} {a : Nat} {v : Byte} (h : m.read a = unlistedByte) :
    (Memory.list m a v).read a = v := by
  unfold Memory.list
  split
  · simp_all
  · simp [Memory.read]

theorem Memory.read_list_other {m : Memory} {a x : Nat} {v : Byte} (h : x ≠ a) :
    (Memory.list m a v).read x = m.read x := by
  unfold Memory.list
  split
  · rfl
  · simp [Memory.read, Ne.symm h]

/-- A write leaves every other byte alone, in every memory. -/
theorem Memory.read_write_other {m : Memory} {a x : Nat} {v : Byte} (h : x ≠ a) :
    (m.write a v).read x = m.read x := by
  induction m with
  | nil => exact Memory.read_list_other h
  | cons c m ih =>
    obtain ⟨k, b⟩ := c
    simp only [Memory.write]
    split
    · exact Memory.read_list_other h
    · split
      · next hk => subst hk; rw [Memory.read_list_other h]; simp [Memory.read, Ne.symm h]
      · simp only [Memory.read, ih]

/-- A read after a write to the same address gives the value written. -/
theorem Memory.read_write_same {m : Memory} {a : Nat} {v : Byte} (hm : m.wf = true) : (m.write a v).read a = v := by
  induction m with
  | nil => exact Memory.read_list_same rfl
  | cons c m ih =>
    obtain ⟨k, b⟩ := c
    obtain ⟨-, -, hab, hwf⟩ := Memory.wf_cons.1 hm
    simp only [Memory.write]
    split
    · next h =>
      refine Memory.read_list_same ?_
      simp only [Memory.read]
      rw [if_neg (by omega), Memory.read_above hab (by omega)]
    · split
      · next h => exact Memory.read_list_same (Memory.read_above hab (by omega))
      · next h1 h2 => simp only [Memory.read, if_neg (Ne.symm h2), ih hwf]

/-! ### The canonical form -/

theorem Memory.above_list {m : Memory} {a k : Nat} {v : Byte} (h : Memory.above m k) (ha : k < a) :
    Memory.above (Memory.list m a v) k := by
  unfold Memory.list
  split
  · exact h
  · intro c hc
    rcases List.mem_cons.1 hc with rfl | hc
    · exact ha
    · exact h c hc

theorem Memory.above_write {m : Memory} {a k : Nat} {v : Byte} (h : Memory.above m k) (ha : k < a) :
    Memory.above (m.write a v) k := by
  induction m with
  | nil => exact Memory.above_list h ha
  | cons c m ih =>
    obtain ⟨l, b⟩ := c
    have ht : Memory.above m k := fun d hd => h d (by simp [hd])
    simp only [Memory.write]
    split
    · exact Memory.above_list h ha
    · split
      · exact Memory.above_list ht ha
      · intro d hd
        rcases List.mem_cons.1 hd with rfl | hd
        · exact h _ (by simp)
        · exact ih ht d hd

theorem Memory.wf_list {m : Memory} {a : Nat} {v : Byte} (hm : m.wf = true) (hab : Memory.above m a)
    (ha : a < addressSpace) : (Memory.list m a v).wf = true := by
  unfold Memory.list
  split
  · exact hm
  · next hv => exact Memory.wf_cons.2 ⟨ha, hv, hab, hm⟩

theorem Memory.above_mono {m : Memory} {a k : Nat} (h : Memory.above m k) (ha : a ≤ k) : Memory.above m a :=
  fun c hc => Nat.lt_of_le_of_lt ha (h c hc)

/-- A write inside the address space keeps the canonical form. -/
theorem Memory.wf_write {m : Memory} {a : Nat} {v : Byte} (hm : m.wf = true) (ha : a < addressSpace) :
    (m.write a v).wf = true := by
  induction m with
  | nil => exact Memory.wf_list hm (fun c hc => by simp at hc) ha
  | cons c m ih =>
    obtain ⟨k, b⟩ := c
    obtain ⟨hk, hb, hab, hwf⟩ := Memory.wf_cons.1 hm
    simp only [Memory.write]
    split
    · next h =>
      refine Memory.wf_list hm (fun d hd => ?_) ha
      rcases List.mem_cons.1 hd with rfl | hd
      · exact h
      · exact Nat.lt_trans h (hab d hd)
    · split
      · next h => subst h; exact Memory.wf_list hwf hab ha
      · exact Memory.wf_cons.2 ⟨hk, hb, Memory.above_write hab (by omega), ih hwf⟩

/-! ### Several bytes -/

/-- A store leaves every byte outside it alone, in every memory. -/
theorem Memory.read_store_outside {m : Memory} {a x : Nat} {bs : Bytes} (h : x < a ∨ a + bs.length ≤ x) :
    (m.store a bs).read x = m.read x := by
  induction bs generalizing m a with
  | nil => rfl
  | cons b bs ih =>
    simp only [Memory.store, List.length_cons] at h ⊢
    rw [ih (by omega), Memory.read_write_other (by omega)]

theorem Memory.wf_store {m : Memory} {a : Nat} {bs : Bytes} (hm : m.wf = true) (h : a + bs.length ≤ addressSpace) :
    (m.store a bs).wf = true := by
  induction bs generalizing m a with
  | nil => exact hm
  | cons b bs ih =>
    simp only [Memory.store, List.length_cons] at h ⊢
    exact ih (Memory.wf_write hm (by omega)) (by omega)

/-- The bytes stored read back. -/
theorem Memory.read_store_inside {m : Memory} {a k : Nat} {bs : Bytes} (hm : m.wf = true)
    (hs : a + bs.length ≤ addressSpace) (hk : k < bs.length) : (m.store a bs).read (a + k) = bs[k] := by
  induction bs generalizing m a k with
  | nil => simp at hk
  | cons b bs ih =>
    simp only [List.length_cons] at hs hk
    simp only [Memory.store]
    cases k with
    | zero => rw [Memory.read_store_outside (by omega)]; exact Memory.read_write_same hm
    | succ k =>
      have h := ih (m := m.write a b) (a := a + 1) (k := k) (Memory.wf_write hm (by omega)) (by omega) (by omega)
      rw [show a + (k + 1) = a + 1 + k by omega, h, List.getElem_cons_succ]

/-- Spoiling a range leaves every byte outside it alone, in every memory. -/
theorem Memory.read_havoc_outside {d : Nat} {m : Memory} {a x n : Nat} (h : x < a ∨ a + n ≤ x) :
    (m.havoc d a n).read x = m.read x := by
  induction n generalizing m a with
  | zero => rfl
  | succ n ih =>
    simp only [Memory.havoc]
    rw [ih (by omega), Memory.read_write_other (by omega)]

theorem Memory.wf_havoc {d : Nat} {m : Memory} {a n : Nat} (hm : m.wf = true) (h : a + n ≤ addressSpace) :
    (m.havoc d a n).wf = true := by
  induction n generalizing m a with
  | zero => exact hm
  | succ n ih => exact ih (Memory.wf_write hm (by omega)) (by omega)

theorem Memory.length_bytes {m : Memory} {a n : Nat} : (m.bytes a n).length = n := by
  induction n generalizing a with
  | zero => rfl
  | succ n ih => simp [Memory.bytes, ih]

theorem Memory.getElem_bytes {m : Memory} {a n k : Nat} (h : k < (m.bytes a n).length) :
    (m.bytes a n)[k] = m.read (a + k) := by
  induction n generalizing a k with
  | zero => simp [Memory.bytes] at h
  | succ n ih =>
    cases k with
    | zero => simp [Memory.bytes]
    | succ k =>
      simp only [Memory.bytes, List.getElem_cons_succ]
      rw [ih]
      congr 1
      omega

/-- The bytes a store wrote, read as a sequence. -/
theorem Memory.bytes_store {m : Memory} {a : Nat} {bs : Bytes} (hm : m.wf = true)
    (hs : a + bs.length ≤ addressSpace) : (m.store a bs).bytes a bs.length = bs := by
  apply List.ext_getElem Memory.length_bytes
  intro k h1 h2
  rw [Memory.getElem_bytes, Memory.read_store_inside hm hs h2]

end Sys2Proof.Machine
end

