-- ==== Sys2Proof/Laws/State.lean ====
section
/-! SUPPORT. One lemma per field per named update of State, so that no later proof unfolds a record update. -/

namespace Sys2Proof.Machine

variable (s : State)

/-! ### State.accept -/

@[simp] theorem State.accept_irqEn (w : Word) : (s.accept w).irqEn = s.irqEn := rfl
@[simp] theorem State.accept_pmode (w : Word) : (s.accept w).pmode = s.pmode := rfl
@[simp] theorem State.accept_zmode (w : Word) : (s.accept w).zmode = s.zmode := rfl
@[simp] theorem State.accept_done (w : Word) : (s.accept w).done = false := rfl
@[simp] theorem State.accept_ign (w : Word) : (s.accept w).ign = s.ign := rfl
@[simp] theorem State.accept_xhst (w : Word) : (s.accept w).xhst = s.xhst := rfl
@[simp] theorem State.accept_errcode (w : Word) : (s.accept w).errcode = .none := rfl
@[simp] theorem State.accept_srcAddr (w : Word) : (s.accept w).srcAddr = s.srcAddr := rfl
@[simp] theorem State.accept_srcLen (w : Word) : (s.accept w).srcLen = s.srcLen := rfl
@[simp] theorem State.accept_dstAddr (w : Word) : (s.accept w).dstAddr = s.dstAddr := rfl
@[simp] theorem State.accept_dstCap (w : Word) : (s.accept w).dstCap = s.dstCap := rfl
@[simp] theorem State.accept_outLen (w : Word) : (s.accept w).outLen = 0 := rfl
@[simp] theorem State.accept_width (w : Word) : (s.accept w).width = s.width := rfl
@[simp] theorem State.accept_tag (w : Word) : (s.accept w).tag = s.tag := rfl
@[simp] theorem State.accept_errAddr (w : Word) : (s.accept w).errAddr = 0 := rfl
@[simp] theorem State.accept_eng (w : Word) : (s.accept w).eng = .busy := rfl
@[simp] theorem State.accept_cur (w : Word) : (s.accept w).cur = w := rfl
@[simp] theorem State.accept_crcState (w : Word) : (s.accept w).crcState = s.crcState := rfl
@[simp] theorem State.accept_latch (w : Word) : (s.accept w).latch = s.latch := rfl
@[simp] theorem State.accept_rst (w : Word) : (s.accept w).rst = s.rst := rfl
@[simp] theorem State.accept_mem (w : Word) : (s.accept w).mem = s.mem := rfl
@[simp] theorem State.accept_platform (w : Word) : (s.accept w).platform = s.platform := rfl
@[simp] theorem State.accept_host (w : Word) : (s.accept w).host = s.host := rfl
@[simp] theorem State.accept_turns (w : Word) : (s.accept w).turns = s.turns := rfl
@[simp] theorem State.accept_reply (w : Word) : (s.accept w).reply = s.reply := rfl
@[simp] theorem State.accept_draws (w : Word) : (s.accept w).draws = s.draws := rfl

/-! ### State.popTurn -/

@[simp] theorem State.popTurn_irqEn : s.popTurn.irqEn = s.irqEn := rfl
@[simp] theorem State.popTurn_pmode : s.popTurn.pmode = s.pmode := rfl
@[simp] theorem State.popTurn_zmode : s.popTurn.zmode = s.zmode := rfl
@[simp] theorem State.popTurn_done : s.popTurn.done = s.done := rfl
@[simp] theorem State.popTurn_ign : s.popTurn.ign = s.ign := rfl
@[simp] theorem State.popTurn_xhst : s.popTurn.xhst = s.xhst := rfl
@[simp] theorem State.popTurn_errcode : s.popTurn.errcode = s.errcode := rfl
@[simp] theorem State.popTurn_srcAddr : s.popTurn.srcAddr = s.srcAddr := rfl
@[simp] theorem State.popTurn_srcLen : s.popTurn.srcLen = s.srcLen := rfl
@[simp] theorem State.popTurn_dstAddr : s.popTurn.dstAddr = s.dstAddr := rfl
@[simp] theorem State.popTurn_dstCap : s.popTurn.dstCap = s.dstCap := rfl
@[simp] theorem State.popTurn_outLen : s.popTurn.outLen = s.outLen := rfl
@[simp] theorem State.popTurn_width : s.popTurn.width = s.width := rfl
@[simp] theorem State.popTurn_tag : s.popTurn.tag = s.tag := rfl
@[simp] theorem State.popTurn_errAddr : s.popTurn.errAddr = s.errAddr := rfl
@[simp] theorem State.popTurn_eng : s.popTurn.eng = s.eng := rfl
@[simp] theorem State.popTurn_cur : s.popTurn.cur = s.cur := rfl
@[simp] theorem State.popTurn_crcState : s.popTurn.crcState = s.crcState := rfl
@[simp] theorem State.popTurn_latch : s.popTurn.latch = s.latch := rfl
@[simp] theorem State.popTurn_rst : s.popTurn.rst = s.rst := rfl
@[simp] theorem State.popTurn_mem : s.popTurn.mem = s.mem := rfl
@[simp] theorem State.popTurn_platform : s.popTurn.platform = s.platform := rfl
@[simp] theorem State.popTurn_host : s.popTurn.host = s.host := rfl
@[simp] theorem State.popTurn_turns : s.popTurn.turns = s.turns.tail := rfl
@[simp] theorem State.popTurn_reply : s.popTurn.reply = s.reply := rfl
@[simp] theorem State.popTurn_draws : s.popTurn.draws = s.draws := rfl

/-! ### State.popHost -/

@[simp] theorem State.popHost_irqEn : s.popHost.irqEn = s.irqEn := rfl
@[simp] theorem State.popHost_pmode : s.popHost.pmode = s.pmode := rfl
@[simp] theorem State.popHost_zmode : s.popHost.zmode = s.zmode := rfl
@[simp] theorem State.popHost_done : s.popHost.done = s.done := rfl
@[simp] theorem State.popHost_ign : s.popHost.ign = s.ign := rfl
@[simp] theorem State.popHost_xhst : s.popHost.xhst = s.xhst := rfl
@[simp] theorem State.popHost_errcode : s.popHost.errcode = s.errcode := rfl
@[simp] theorem State.popHost_srcAddr : s.popHost.srcAddr = s.srcAddr := rfl
@[simp] theorem State.popHost_srcLen : s.popHost.srcLen = s.srcLen := rfl
@[simp] theorem State.popHost_dstAddr : s.popHost.dstAddr = s.dstAddr := rfl
@[simp] theorem State.popHost_dstCap : s.popHost.dstCap = s.dstCap := rfl
@[simp] theorem State.popHost_outLen : s.popHost.outLen = s.outLen := rfl
@[simp] theorem State.popHost_width : s.popHost.width = s.width := rfl
@[simp] theorem State.popHost_tag : s.popHost.tag = s.tag := rfl
@[simp] theorem State.popHost_errAddr : s.popHost.errAddr = s.errAddr := rfl
@[simp] theorem State.popHost_eng : s.popHost.eng = s.eng := rfl
@[simp] theorem State.popHost_cur : s.popHost.cur = s.cur := rfl
@[simp] theorem State.popHost_crcState : s.popHost.crcState = s.crcState := rfl
@[simp] theorem State.popHost_latch : s.popHost.latch = s.latch := rfl
@[simp] theorem State.popHost_rst : s.popHost.rst = s.rst := rfl
@[simp] theorem State.popHost_mem : s.popHost.mem = s.mem := rfl
@[simp] theorem State.popHost_platform : s.popHost.platform = s.platform := rfl
@[simp] theorem State.popHost_host : s.popHost.host = s.host.tail := rfl
@[simp] theorem State.popHost_turns : s.popHost.turns = s.turns := rfl
@[simp] theorem State.popHost_reply : s.popHost.reply = s.reply := rfl
@[simp] theorem State.popHost_draws : s.popHost.draws = s.draws := rfl

/-! ### State.answer -/

@[simp] theorem State.answer_irqEn (r : Reply) : (s.answer r).irqEn = s.irqEn := rfl
@[simp] theorem State.answer_pmode (r : Reply) : (s.answer r).pmode = s.pmode := rfl
@[simp] theorem State.answer_zmode (r : Reply) : (s.answer r).zmode = s.zmode := rfl
@[simp] theorem State.answer_done (r : Reply) : (s.answer r).done = s.done := rfl
@[simp] theorem State.answer_ign (r : Reply) : (s.answer r).ign = s.ign := rfl
@[simp] theorem State.answer_xhst (r : Reply) : (s.answer r).xhst = s.xhst := rfl
@[simp] theorem State.answer_errcode (r : Reply) : (s.answer r).errcode = s.errcode := rfl
@[simp] theorem State.answer_srcAddr (r : Reply) : (s.answer r).srcAddr = s.srcAddr := rfl
@[simp] theorem State.answer_srcLen (r : Reply) : (s.answer r).srcLen = s.srcLen := rfl
@[simp] theorem State.answer_dstAddr (r : Reply) : (s.answer r).dstAddr = s.dstAddr := rfl
@[simp] theorem State.answer_dstCap (r : Reply) : (s.answer r).dstCap = s.dstCap := rfl
@[simp] theorem State.answer_outLen (r : Reply) : (s.answer r).outLen = s.outLen := rfl
@[simp] theorem State.answer_width (r : Reply) : (s.answer r).width = s.width := rfl
@[simp] theorem State.answer_tag (r : Reply) : (s.answer r).tag = s.tag := rfl
@[simp] theorem State.answer_errAddr (r : Reply) : (s.answer r).errAddr = s.errAddr := rfl
@[simp] theorem State.answer_eng (r : Reply) : (s.answer r).eng = s.eng := rfl
@[simp] theorem State.answer_cur (r : Reply) : (s.answer r).cur = s.cur := rfl
@[simp] theorem State.answer_crcState (r : Reply) : (s.answer r).crcState = s.crcState := rfl
@[simp] theorem State.answer_latch (r : Reply) : (s.answer r).latch = s.latch := rfl
@[simp] theorem State.answer_rst (r : Reply) : (s.answer r).rst = s.rst := rfl
@[simp] theorem State.answer_mem (r : Reply) : (s.answer r).mem = s.mem := rfl
@[simp] theorem State.answer_platform (r : Reply) : (s.answer r).platform = s.platform := rfl
@[simp] theorem State.answer_host (r : Reply) : (s.answer r).host = s.host := rfl
@[simp] theorem State.answer_turns (r : Reply) : (s.answer r).turns = s.turns := rfl
@[simp] theorem State.answer_reply (r : Reply) : (s.answer r).reply = r := rfl
@[simp] theorem State.answer_draws (r : Reply) : (s.answer r).draws = s.draws := rfl

/-! ### State.drawn -/

@[simp] theorem State.drawn_irqEn : s.drawn.irqEn = s.irqEn := rfl
@[simp] theorem State.drawn_pmode : s.drawn.pmode = s.pmode := rfl
@[simp] theorem State.drawn_zmode : s.drawn.zmode = s.zmode := rfl
@[simp] theorem State.drawn_done : s.drawn.done = s.done := rfl
@[simp] theorem State.drawn_ign : s.drawn.ign = s.ign := rfl
@[simp] theorem State.drawn_xhst : s.drawn.xhst = s.xhst := rfl
@[simp] theorem State.drawn_errcode : s.drawn.errcode = s.errcode := rfl
@[simp] theorem State.drawn_srcAddr : s.drawn.srcAddr = s.srcAddr := rfl
@[simp] theorem State.drawn_srcLen : s.drawn.srcLen = s.srcLen := rfl
@[simp] theorem State.drawn_dstAddr : s.drawn.dstAddr = s.dstAddr := rfl
@[simp] theorem State.drawn_dstCap : s.drawn.dstCap = s.dstCap := rfl
@[simp] theorem State.drawn_outLen : s.drawn.outLen = s.outLen := rfl
@[simp] theorem State.drawn_width : s.drawn.width = s.width := rfl
@[simp] theorem State.drawn_tag : s.drawn.tag = s.tag := rfl
@[simp] theorem State.drawn_errAddr : s.drawn.errAddr = s.errAddr := rfl
@[simp] theorem State.drawn_eng : s.drawn.eng = s.eng := rfl
@[simp] theorem State.drawn_cur : s.drawn.cur = s.cur := rfl
@[simp] theorem State.drawn_crcState : s.drawn.crcState = s.crcState := rfl
@[simp] theorem State.drawn_latch : s.drawn.latch = s.latch := rfl
@[simp] theorem State.drawn_rst : s.drawn.rst = s.rst := rfl
@[simp] theorem State.drawn_mem : s.drawn.mem = s.mem := rfl
@[simp] theorem State.drawn_platform : s.drawn.platform = s.platform := rfl
@[simp] theorem State.drawn_host : s.drawn.host = s.host := rfl
@[simp] theorem State.drawn_turns : s.drawn.turns = s.turns := rfl
@[simp] theorem State.drawn_reply : s.drawn.reply = s.reply := rfl
@[simp] theorem State.drawn_draws : s.drawn.draws = s.draws + 1 := rfl

/-! ### acknowledge -/

@[simp] theorem acknowledge_irqEn (v : Word) : (acknowledge s v).irqEn = s.irqEn := rfl
@[simp] theorem acknowledge_pmode (v : Word) : (acknowledge s v).pmode = s.pmode := rfl
@[simp] theorem acknowledge_zmode (v : Word) : (acknowledge s v).zmode = s.zmode := rfl
@[simp] theorem acknowledge_done (v : Word) : (acknowledge s v).done = (s.done && !v.getLsbD 1) := rfl
@[simp] theorem acknowledge_ign (v : Word) : (acknowledge s v).ign = (s.ign && !v.getLsbD 2) := rfl
@[simp] theorem acknowledge_xhst (v : Word) : (acknowledge s v).xhst = s.xhst := rfl
@[simp] theorem acknowledge_errcode (v : Word) : (acknowledge s v).errcode = s.errcode := rfl
@[simp] theorem acknowledge_srcAddr (v : Word) : (acknowledge s v).srcAddr = s.srcAddr := rfl
@[simp] theorem acknowledge_srcLen (v : Word) : (acknowledge s v).srcLen = s.srcLen := rfl
@[simp] theorem acknowledge_dstAddr (v : Word) : (acknowledge s v).dstAddr = s.dstAddr := rfl
@[simp] theorem acknowledge_dstCap (v : Word) : (acknowledge s v).dstCap = s.dstCap := rfl
@[simp] theorem acknowledge_outLen (v : Word) : (acknowledge s v).outLen = s.outLen := rfl
@[simp] theorem acknowledge_width (v : Word) : (acknowledge s v).width = s.width := rfl
@[simp] theorem acknowledge_tag (v : Word) : (acknowledge s v).tag = s.tag := rfl
@[simp] theorem acknowledge_errAddr (v : Word) : (acknowledge s v).errAddr = s.errAddr := rfl
@[simp] theorem acknowledge_eng (v : Word) : (acknowledge s v).eng = s.eng := rfl
@[simp] theorem acknowledge_cur (v : Word) : (acknowledge s v).cur = s.cur := rfl
@[simp] theorem acknowledge_crcState (v : Word) : (acknowledge s v).crcState = s.crcState := rfl
@[simp] theorem acknowledge_latch (v : Word) : (acknowledge s v).latch = s.latch := rfl
@[simp] theorem acknowledge_rst (v : Word) : (acknowledge s v).rst = s.rst := rfl
@[simp] theorem acknowledge_mem (v : Word) : (acknowledge s v).mem = s.mem := rfl
@[simp] theorem acknowledge_platform (v : Word) : (acknowledge s v).platform = s.platform := rfl
@[simp] theorem acknowledge_host (v : Word) : (acknowledge s v).host = s.host := rfl
@[simp] theorem acknowledge_turns (v : Word) : (acknowledge s v).turns = s.turns := rfl
@[simp] theorem acknowledge_reply (v : Word) : (acknowledge s v).reply = s.reply := rfl
@[simp] theorem acknowledge_draws (v : Word) : (acknowledge s v).draws = s.draws := rfl

/-! ### State.spoilWindow -/

@[simp] theorem State.spoilWindow_irqEn : s.spoilWindow.irqEn = s.irqEn := rfl
@[simp] theorem State.spoilWindow_pmode : s.spoilWindow.pmode = s.pmode := rfl
@[simp] theorem State.spoilWindow_zmode : s.spoilWindow.zmode = s.zmode := rfl
@[simp] theorem State.spoilWindow_done : s.spoilWindow.done = s.done := rfl
@[simp] theorem State.spoilWindow_ign : s.spoilWindow.ign = s.ign := rfl
@[simp] theorem State.spoilWindow_xhst : s.spoilWindow.xhst = s.xhst := rfl
@[simp] theorem State.spoilWindow_errcode : s.spoilWindow.errcode = s.errcode := rfl
@[simp] theorem State.spoilWindow_srcAddr : s.spoilWindow.srcAddr = s.srcAddr := rfl
@[simp] theorem State.spoilWindow_srcLen : s.spoilWindow.srcLen = s.srcLen := rfl
@[simp] theorem State.spoilWindow_dstAddr : s.spoilWindow.dstAddr = s.dstAddr := rfl
@[simp] theorem State.spoilWindow_dstCap : s.spoilWindow.dstCap = s.dstCap := rfl
@[simp] theorem State.spoilWindow_outLen : s.spoilWindow.outLen = s.outLen := rfl
@[simp] theorem State.spoilWindow_width : s.spoilWindow.width = s.width := rfl
@[simp] theorem State.spoilWindow_tag : s.spoilWindow.tag = s.tag := rfl
@[simp] theorem State.spoilWindow_errAddr : s.spoilWindow.errAddr = s.errAddr := rfl
@[simp] theorem State.spoilWindow_eng : s.spoilWindow.eng = s.eng := rfl
@[simp] theorem State.spoilWindow_cur : s.spoilWindow.cur = s.cur := rfl
@[simp] theorem State.spoilWindow_crcState : s.spoilWindow.crcState = s.crcState := rfl
@[simp] theorem State.spoilWindow_latch : s.spoilWindow.latch = s.latch := rfl
@[simp] theorem State.spoilWindow_rst : s.spoilWindow.rst = s.rst := rfl
@[simp] theorem State.spoilWindow_mem : s.spoilWindow.mem = s.mem.havoc s.draws s.dstAddr.toNat s.dstSpan := rfl
@[simp] theorem State.spoilWindow_platform : s.spoilWindow.platform = s.platform := rfl
@[simp] theorem State.spoilWindow_host : s.spoilWindow.host = s.host := rfl
@[simp] theorem State.spoilWindow_turns : s.spoilWindow.turns = s.turns := rfl
@[simp] theorem State.spoilWindow_reply : s.spoilWindow.reply = s.reply := rfl
@[simp] theorem State.spoilWindow_draws : s.spoilWindow.draws = s.draws + 1 := rfl

/-! ### completeOk -/

@[simp] theorem completeOk_irqEn (out : Bytes) : (completeOk s out).irqEn = s.irqEn := rfl
@[simp] theorem completeOk_pmode (out : Bytes) : (completeOk s out).pmode = s.pmode := rfl
@[simp] theorem completeOk_zmode (out : Bytes) : (completeOk s out).zmode = s.zmode := rfl
@[simp] theorem completeOk_done (out : Bytes) : (completeOk s out).done = true := rfl
@[simp] theorem completeOk_ign (out : Bytes) : (completeOk s out).ign = s.ign := rfl
@[simp] theorem completeOk_xhst (out : Bytes) : (completeOk s out).xhst = s.xhst := rfl
@[simp] theorem completeOk_errcode (out : Bytes) : (completeOk s out).errcode = .none := rfl
@[simp] theorem completeOk_srcAddr (out : Bytes) : (completeOk s out).srcAddr = s.srcAddr := rfl
@[simp] theorem completeOk_srcLen (out : Bytes) : (completeOk s out).srcLen = s.srcLen := rfl
@[simp] theorem completeOk_dstAddr (out : Bytes) : (completeOk s out).dstAddr = s.dstAddr := rfl
@[simp] theorem completeOk_dstCap (out : Bytes) : (completeOk s out).dstCap = s.dstCap := rfl
@[simp] theorem completeOk_outLen (out : Bytes) : (completeOk s out).outLen = BitVec.ofNat 32 out.length := rfl
@[simp] theorem completeOk_width (out : Bytes) : (completeOk s out).width = s.width := rfl
@[simp] theorem completeOk_tag (out : Bytes) : (completeOk s out).tag = s.tag := rfl
@[simp] theorem completeOk_errAddr (out : Bytes) : (completeOk s out).errAddr = 0 := rfl
@[simp] theorem completeOk_eng (out : Bytes) : (completeOk s out).eng = .idle := rfl
@[simp] theorem completeOk_cur (out : Bytes) : (completeOk s out).cur = s.cur := rfl
@[simp] theorem completeOk_crcState (out : Bytes) : (completeOk s out).crcState = s.crcState := rfl
@[simp] theorem completeOk_latch (out : Bytes) : (completeOk s out).latch = s.latch := rfl
@[simp] theorem completeOk_rst (out : Bytes) : (completeOk s out).rst = s.rst := rfl
@[simp] theorem completeOk_mem (out : Bytes) : (completeOk s out).mem = s.mem.store s.dstAddr.toNat out := rfl
@[simp] theorem completeOk_platform (out : Bytes) : (completeOk s out).platform = s.platform := rfl
@[simp] theorem completeOk_host (out : Bytes) : (completeOk s out).host = s.host := rfl
@[simp] theorem completeOk_turns (out : Bytes) : (completeOk s out).turns = s.turns := rfl
@[simp] theorem completeOk_reply (out : Bytes) : (completeOk s out).reply = s.reply := rfl
@[simp] theorem completeOk_draws (out : Bytes) : (completeOk s out).draws = s.draws := rfl

/-! ### raiseError -/

@[simp] theorem raiseError_irqEn (c : ErrCode) (info : Word) : (raiseError s c info).irqEn = s.irqEn := by unfold raiseError; split <;> rfl
@[simp] theorem raiseError_pmode (c : ErrCode) (info : Word) : (raiseError s c info).pmode = s.pmode := by unfold raiseError; split <;> rfl
@[simp] theorem raiseError_zmode (c : ErrCode) (info : Word) : (raiseError s c info).zmode = s.zmode := by unfold raiseError; split <;> rfl
@[simp] theorem raiseError_done (c : ErrCode) (info : Word) : (raiseError s c info).done = true := by unfold raiseError; split <;> rfl
@[simp] theorem raiseError_ign (c : ErrCode) (info : Word) : (raiseError s c info).ign = s.ign := by unfold raiseError; split <;> rfl
@[simp] theorem raiseError_xhst (c : ErrCode) (info : Word) : (raiseError s c info).xhst = s.xhst := by unfold raiseError; split <;> rfl
@[simp] theorem raiseError_errcode (c : ErrCode) (info : Word) : (raiseError s c info).errcode = c := by unfold raiseError; split <;> rfl
@[simp] theorem raiseError_srcAddr (c : ErrCode) (info : Word) : (raiseError s c info).srcAddr = s.srcAddr := by unfold raiseError; split <;> rfl
@[simp] theorem raiseError_srcLen (c : ErrCode) (info : Word) : (raiseError s c info).srcLen = s.srcLen := by unfold raiseError; split <;> rfl
@[simp] theorem raiseError_dstAddr (c : ErrCode) (info : Word) : (raiseError s c info).dstAddr = s.dstAddr := by unfold raiseError; split <;> rfl
@[simp] theorem raiseError_dstCap (c : ErrCode) (info : Word) : (raiseError s c info).dstCap = s.dstCap := by unfold raiseError; split <;> rfl
@[simp] theorem raiseError_outLen (c : ErrCode) (info : Word) : (raiseError s c info).outLen = 0 := by unfold raiseError; split <;> rfl
@[simp] theorem raiseError_width (c : ErrCode) (info : Word) : (raiseError s c info).width = s.width := by unfold raiseError; split <;> rfl
@[simp] theorem raiseError_tag (c : ErrCode) (info : Word) : (raiseError s c info).tag = s.tag := by unfold raiseError; split <;> rfl
@[simp] theorem raiseError_errAddr (c : ErrCode) (info : Word) : (raiseError s c info).errAddr = info := by unfold raiseError; split <;> rfl
@[simp] theorem raiseError_eng (c : ErrCode) (info : Word) : (raiseError s c info).eng = .idle := by unfold raiseError; split <;> rfl
@[simp] theorem raiseError_cur (c : ErrCode) (info : Word) : (raiseError s c info).cur = s.cur := by unfold raiseError; split <;> rfl
@[simp] theorem raiseError_crcState (c : ErrCode) (info : Word) : (raiseError s c info).crcState = s.crcState := by unfold raiseError; split <;> rfl
@[simp] theorem raiseError_latch (c : ErrCode) (info : Word) : (raiseError s c info).latch = s.latch := by unfold raiseError; split <;> rfl
@[simp] theorem raiseError_rst (c : ErrCode) (info : Word) : (raiseError s c info).rst = s.rst := by unfold raiseError; split <;> rfl
@[simp] theorem raiseError_mem (c : ErrCode) (info : Word) : (raiseError s c info).mem = if c.isExecution then s.mem.havoc s.draws s.dstAddr.toNat s.dstSpan else s.mem := by unfold raiseError; split <;> rfl
@[simp] theorem raiseError_platform (c : ErrCode) (info : Word) : (raiseError s c info).platform = s.platform := by unfold raiseError; split <;> rfl
@[simp] theorem raiseError_host (c : ErrCode) (info : Word) : (raiseError s c info).host = s.host := by unfold raiseError; split <;> rfl
@[simp] theorem raiseError_turns (c : ErrCode) (info : Word) : (raiseError s c info).turns = s.turns := by unfold raiseError; split <;> rfl
@[simp] theorem raiseError_reply (c : ErrCode) (info : Word) : (raiseError s c info).reply = s.reply := by unfold raiseError; split <;> rfl
@[simp] theorem raiseError_draws (c : ErrCode) (info : Word) : (raiseError s c info).draws = if c.isExecution then s.draws + 1 else s.draws := by unfold raiseError; split <;> rfl

/-! ### State.clearBlock -/

@[simp] theorem State.clearBlock_irqEn : s.clearBlock.irqEn = State.reset.irqEn := rfl
@[simp] theorem State.clearBlock_pmode : s.clearBlock.pmode = State.reset.pmode := rfl
@[simp] theorem State.clearBlock_zmode : s.clearBlock.zmode = State.reset.zmode := rfl
@[simp] theorem State.clearBlock_done : s.clearBlock.done = State.reset.done := rfl
@[simp] theorem State.clearBlock_ign : s.clearBlock.ign = State.reset.ign := rfl
@[simp] theorem State.clearBlock_xhst : s.clearBlock.xhst = State.reset.xhst := rfl
@[simp] theorem State.clearBlock_errcode : s.clearBlock.errcode = State.reset.errcode := rfl
@[simp] theorem State.clearBlock_srcAddr : s.clearBlock.srcAddr = State.reset.srcAddr := rfl
@[simp] theorem State.clearBlock_srcLen : s.clearBlock.srcLen = State.reset.srcLen := rfl
@[simp] theorem State.clearBlock_dstAddr : s.clearBlock.dstAddr = State.reset.dstAddr := rfl
@[simp] theorem State.clearBlock_dstCap : s.clearBlock.dstCap = State.reset.dstCap := rfl
@[simp] theorem State.clearBlock_outLen : s.clearBlock.outLen = State.reset.outLen := rfl
@[simp] theorem State.clearBlock_width : s.clearBlock.width = State.reset.width := rfl
@[simp] theorem State.clearBlock_tag : s.clearBlock.tag = State.reset.tag := rfl
@[simp] theorem State.clearBlock_errAddr : s.clearBlock.errAddr = State.reset.errAddr := rfl
@[simp] theorem State.clearBlock_eng : s.clearBlock.eng = State.reset.eng := rfl
@[simp] theorem State.clearBlock_cur : s.clearBlock.cur = State.reset.cur := rfl
@[simp] theorem State.clearBlock_crcState : s.clearBlock.crcState = State.reset.crcState := rfl
@[simp] theorem State.clearBlock_latch : s.clearBlock.latch = State.reset.latch := rfl
@[simp] theorem State.clearBlock_rst : s.clearBlock.rst = s.rst := rfl
@[simp] theorem State.clearBlock_mem : s.clearBlock.mem = s.mem := rfl
@[simp] theorem State.clearBlock_platform : s.clearBlock.platform = s.platform := rfl
@[simp] theorem State.clearBlock_host : s.clearBlock.host = s.host := rfl
@[simp] theorem State.clearBlock_turns : s.clearBlock.turns = s.turns := rfl
@[simp] theorem State.clearBlock_reply : s.clearBlock.reply = s.reply := rfl
@[simp] theorem State.clearBlock_draws : s.clearBlock.draws = s.draws := rfl

/-! ### State.resetBlock -/

@[simp] theorem State.resetBlock_irqEn : s.resetBlock.irqEn = State.reset.irqEn := by unfold State.resetBlock; split <;> rfl
@[simp] theorem State.resetBlock_pmode : s.resetBlock.pmode = State.reset.pmode := by unfold State.resetBlock; split <;> rfl
@[simp] theorem State.resetBlock_zmode : s.resetBlock.zmode = State.reset.zmode := by unfold State.resetBlock; split <;> rfl
@[simp] theorem State.resetBlock_done : s.resetBlock.done = State.reset.done := by unfold State.resetBlock; split <;> rfl
@[simp] theorem State.resetBlock_ign : s.resetBlock.ign = State.reset.ign := by unfold State.resetBlock; split <;> rfl
@[simp] theorem State.resetBlock_xhst : s.resetBlock.xhst = State.reset.xhst := by unfold State.resetBlock; split <;> rfl
@[simp] theorem State.resetBlock_errcode : s.resetBlock.errcode = State.reset.errcode := by unfold State.resetBlock; split <;> rfl
@[simp] theorem State.resetBlock_srcAddr : s.resetBlock.srcAddr = State.reset.srcAddr := by unfold State.resetBlock; split <;> rfl
@[simp] theorem State.resetBlock_srcLen : s.resetBlock.srcLen = State.reset.srcLen := by unfold State.resetBlock; split <;> rfl
@[simp] theorem State.resetBlock_dstAddr : s.resetBlock.dstAddr = State.reset.dstAddr := by unfold State.resetBlock; split <;> rfl
@[simp] theorem State.resetBlock_dstCap : s.resetBlock.dstCap = State.reset.dstCap := by unfold State.resetBlock; split <;> rfl
@[simp] theorem State.resetBlock_outLen : s.resetBlock.outLen = State.reset.outLen := by unfold State.resetBlock; split <;> rfl
@[simp] theorem State.resetBlock_width : s.resetBlock.width = State.reset.width := by unfold State.resetBlock; split <;> rfl
@[simp] theorem State.resetBlock_tag : s.resetBlock.tag = State.reset.tag := by unfold State.resetBlock; split <;> rfl
@[simp] theorem State.resetBlock_errAddr : s.resetBlock.errAddr = State.reset.errAddr := by unfold State.resetBlock; split <;> rfl
@[simp] theorem State.resetBlock_eng : s.resetBlock.eng = State.reset.eng := by unfold State.resetBlock; split <;> rfl
@[simp] theorem State.resetBlock_cur : s.resetBlock.cur = State.reset.cur := by unfold State.resetBlock; split <;> rfl
@[simp] theorem State.resetBlock_crcState : s.resetBlock.crcState = State.reset.crcState := by unfold State.resetBlock; split <;> rfl
@[simp] theorem State.resetBlock_latch : s.resetBlock.latch = State.reset.latch := by unfold State.resetBlock; split <;> rfl
@[simp] theorem State.resetBlock_rst : s.resetBlock.rst = s.rst := by unfold State.resetBlock; split <;> rfl
@[simp] theorem State.resetBlock_mem : s.resetBlock.mem = if s.busyBit then s.mem.havoc s.draws s.dstAddr.toNat s.dstSpan else s.mem := by unfold State.resetBlock; split <;> rfl
@[simp] theorem State.resetBlock_platform : s.resetBlock.platform = s.platform := by unfold State.resetBlock; split <;> rfl
@[simp] theorem State.resetBlock_host : s.resetBlock.host = s.host := by unfold State.resetBlock; split <;> rfl
@[simp] theorem State.resetBlock_turns : s.resetBlock.turns = s.turns := by unfold State.resetBlock; split <;> rfl
@[simp] theorem State.resetBlock_reply : s.resetBlock.reply = s.reply := by unfold State.resetBlock; split <;> rfl
@[simp] theorem State.resetBlock_draws : s.resetBlock.draws = if s.busyBit then s.draws + 1 else s.draws := by unfold State.resetBlock; split <;> rfl

/-! ### State.driveReset -/

@[simp] theorem State.driveReset_true : s.driveReset true = { s.resetBlock with rst := true } := rfl
@[simp] theorem State.driveReset_false : s.driveReset false = { s with rst := false } := rfl

end Sys2Proof.Machine
end

