-- ==== Sys2Proof/Laws/Ops.lean ====
section
/-! SUPPORT. One lemma per shared operation that says everything it can do; proofs cite these and do not unfold it. -/

namespace Sys2Proof.Machine

/-! ### Reading and writing ranges -/

/-- A read set without a bus error gives its bytes. -/
theorem readSpan_ok {p : Platform} {m : Memory} {a n : Nat} (h : ∀ k, k < n → p.rdOk (a + k) = true) :
    readSpan p m a n = (m.bytes a n, none) := by
  induction n generalizing a with
  | zero => rfl
  | succ n ih =>
    have h0 : p.rdOk a = true := h 0 (by omega)
    have h1 := ih (a := a + 1) fun k hk => by
      have := h (k + 1) (by omega)
      rwa [show a + 1 + k = a + (k + 1) by omega]
    simp [readSpan, Memory.bytes, h0, h1]

/-- A bus error is reported at the first byte that has one, with the bytes before it. -/
theorem readSpan_fault {p : Platform} {m : Memory} {a n k : Nat} (hk : k < n) (hbad : p.rdOk (a + k) = false)
    (h : ∀ j, j < k → p.rdOk (a + j) = true) : readSpan p m a n = (m.bytes a k, some (a + k)) := by
  induction n generalizing a k with
  | zero => omega
  | succ n ih =>
    cases k with
    | zero => simp_all [readSpan, Memory.bytes]
    | succ k =>
      have h0 : p.rdOk a = true := h 0 (by omega)
      have h1 := ih (a := a + 1) (k := k) (by omega) (by rwa [show a + 1 + k = a + (k + 1) by omega]) fun j hj => by
        have := h (j + 1) (by omega)
        rwa [show a + 1 + j = a + (j + 1) by omega]
      simp [readSpan, Memory.bytes, h0, h1, show a + 1 + k = a + (k + 1) by omega]

/-- Everything `readSpan` can answer. -/
theorem readSpan_cases (p : Platform) (m : Memory) (a n : Nat) :
    ((∀ k, k < n → p.rdOk (a + k) = true) ∧ readSpan p m a n = (m.bytes a n, none)) ∨
    (∃ k, k < n ∧ p.rdOk (a + k) = false ∧ (∀ j, j < k → p.rdOk (a + j) = true) ∧
      readSpan p m a n = (m.bytes a k, some (a + k))) := by
  by_cases h : ∀ k, k < n → p.rdOk (a + k) = true
  · exact .inl ⟨h, readSpan_ok h⟩
  · push Not at h
    obtain ⟨k, ⟨hk, hb⟩, hmin⟩ := WellFounded.has_min (r := (· < · : Nat → Nat → Prop)) wellFounded_lt
      {k | k < n ∧ p.rdOk (a + k) ≠ true} h
    have hbad : p.rdOk (a + k) = false := by simpa using hb
    have hgood : ∀ j, j < k → p.rdOk (a + j) = true := fun j hj => by
      by_contra hc
      exact hmin j ⟨by omega, hc⟩ hj
    exact .inr ⟨k, hk, hbad, hgood, readSpan_fault hk hbad hgood⟩

theorem badWrite_none {p : Platform} {a n : Nat} (h : ∀ k, k < n → p.wrOk (a + k) = true) : badWrite p a n = none := by
  induction n generalizing a with
  | zero => rfl
  | succ n ih =>
    have h0 : p.wrOk a = true := h 0 (by omega)
    simp only [badWrite, h0, if_true]
    exact ih fun k hk => by
      have := h (k + 1) (by omega)
      rwa [show a + 1 + k = a + (k + 1) by omega]

/-- A write fault is reported at the lowest address that has one. -/
theorem badWrite_some {p : Platform} {a n k : Nat} (hk : k < n) (hbad : p.wrOk (a + k) = false)
    (h : ∀ j, j < k → p.wrOk (a + j) = true) : badWrite p a n = some (a + k) := by
  induction n generalizing a k with
  | zero => omega
  | succ n ih =>
    cases k with
    | zero => simp_all [badWrite]
    | succ k =>
      have h0 : p.wrOk a = true := h 0 (by omega)
      have h1 := ih (a := a + 1) (k := k) (by omega) (by rwa [show a + 1 + k = a + (k + 1) by omega]) fun j hj => by
        have := h (j + 1) (by omega)
        rwa [show a + 1 + j = a + (j + 1) by omega]
      simp [badWrite, h0, h1, show a + 1 + k = a + (k + 1) by omega]

/-! ### The parts of a command -/

theorem precheck_passes {f : Needs} {s : State} (h : PrecheckPasses f s) : precheck f s = none := by
  obtain ⟨h1, h2, h3, h4, h5⟩ := h
  unfold precheck
  have hz : ¬(f.zmode = true ∧ 2 ≤ s.zmode.toNat) := by
    rintro ⟨hz, hge⟩
    rcases h2 hz with h | h <;> simp [h] at hge
  have e2 : addressSpace = 2 ^ 32 := rfl
  rw [if_neg (by simpa using h1), if_neg (by simpa using hz), if_neg, if_neg, if_neg]
  · intro hc
    simp only [Bool.and_eq_true] at hc
    exact h5 hc.1.1 hc.1.2 (of_decide_eq_true hc.2)
  · intro hc
    simp only [Bool.and_eq_true, decide_eq_true_eq] at hc
    exact absurd (h4 hc.1) (by have := hc.2; unfold State.dstEnd at this; omega)
  · intro hc
    simp only [Bool.and_eq_true, decide_eq_true_eq] at hc
    exact absurd (h3 hc.1) (by have := hc.2; unfold State.srcEnd at this; omega)

theorem checked_passes {f : Needs} {s : State} {body : CmdResult} (h : PrecheckPasses f s) : checked f s body = body := by
  simp [checked, precheck_passes h]

theorem checked_fails {f : Needs} {s : State} {body : CmdResult} {e : ErrCode} (h : precheck f s = some e) :
    checked f s body = .err s e 0 := by
  simp [checked, h]

/-- `precheck` raises nothing exactly when the conditions of R202 hold. -/
theorem precheck_none_iff {f : Needs} {s : State} : precheck f s = none ↔ PrecheckPasses f s := by
  refine ⟨fun h => ?_, precheck_passes⟩
  have e : addressSpace = 2 ^ 32 := rfl
  unfold precheck at h
  split at h <;> try cases h
  split at h <;> try cases h
  split at h <;> try cases h
  split at h <;> try cases h
  split at h <;> try cases h
  next h1 h2 h3 h4 h5 =>
    simp only [Bool.and_eq_true, decide_eq_true_eq, beq_iff_eq, not_and, State.rangesOverlap, State.srcEnd, State.dstEnd, e]
      at h1 h2 h3 h4 h5
    refine ⟨h1, fun h => ?_, fun h => not_lt.1 (h3 h), fun h => not_lt.1 (h4 h), fun h k hc => ?_⟩
    · have := h2 h
      have hz : s.zmode.toNat = 0 ∨ s.zmode.toNat = 1 := by omega
      exact hz.imp (fun h => BitVec.eq_of_toNat_eq h) fun h => BitVec.eq_of_toNat_eq h
    · exact h5 ⟨h, k⟩ (decide_eq_true hc)

/-- `windowMeets` finds an address of the register window in a range. -/
theorem windowMeets_iff {p : Platform} {a n : Nat} :
    p.windowMeets a n = true ↔
      ∃ x, (p.regBase ++ 0#8).toNat ≤ x ∧ x < (p.regBase ++ 0#8).toNat + 256 ∧ a ≤ x ∧ x < a + n := by
  have e : (p.regBase ++ 0#8).toNat = p.regBase.toNat * 256 := by
    rw [BitVec.toNat_append, Nat.shiftLeft_eq]
    simp
  rw [Platform.windowMeets, decide_eq_true_eq, e]
  constructor
  · intro ⟨h1, h2, h3⟩
    exact ⟨max a (p.regBase.toNat * 256), by omega, by omega, by omega, by omega⟩
  · rintro ⟨x, h1, h2, h3, h4⟩
    omega

/-- The model admits a command with these flags exactly when, if its prechecks pass, its ranges are outside the window. -/
theorem admitsRanges_iff {f : Needs} {s : State} :
    admitsRanges f s = true ↔ (PrecheckPasses f s → RangesOutsideWindow f s) := by
  rw [← precheck_none_iff]
  have hs := windowMeets_iff (p := s.platform) (a := s.srcAddr.toNat) (n := s.srcLen.toNat)
  have hd := windowMeets_iff (p := s.platform) (a := s.dstAddr.toNat) (n := s.dstCap.toNat)
  unfold admitsRanges
  cases precheck f s with
  | some e => simp
  | none =>
    simp only [Option.isSome_none, Bool.false_or, Bool.and_eq_true, Bool.not_eq_true', ← Bool.not_eq_true, hs, hd,
      true_imp_iff]
    constructor
    · exact fun ⟨h1, h2⟩ a ha hb =>
        ⟨fun ⟨hf, hc, hd⟩ => h1 ⟨hf, a, ha, hb, hc, hd⟩, fun ⟨hf, hc, hd⟩ => h2 ⟨hf, a, ha, hb, hc, hd⟩⟩
    · exact fun h => ⟨fun ⟨hf, a, ha, hb, hc, hd⟩ => (h a ha hb).1 ⟨hf, hc, hd⟩,
        fun ⟨hf, a, ha, hb, hc, hd⟩ => (h a ha hb).2 ⟨hf, hc, hd⟩⟩

/-- `admits` says of every command what `Admitted` says. -/
theorem admits_iff {s : State} {i : Instr} : admits s i = true ↔ Admitted s i := by
  have none : needsOf i = none → Admitted s i := fun h f hf => by rw [h] at hf; cases hf
  have some (g : Needs) (h : needsOf i = .some g) : admitsRanges g s = true ↔ Admitted s i := by
    rw [admitsRanges_iff, Admitted, h]
    exact ⟨fun k f hf => by cases hf; exact k, fun k => k g rfl⟩
  cases i with
  | nop | crcInit | crcByte | size => exact ⟨fun _ => none rfl, fun _ => rfl⟩
  | crcBuf | pack | zlib | chunk | ihdr | idat | iend | sig | encode => exact some _ rfl

/-- Every error `precheck` raises is a precheck error (codes 2 to 4). -/
theorem precheck_code {f : Needs} {s : State} {e : ErrCode} (h : precheck f s = some e) :
    e = .illegalCfg ∨ e = .range ∨ e = .overlap := by
  unfold precheck at h
  repeat' split at h
  all_goals simp_all

/-- A command whose prechecks pass has its DST window inside the address space. -/
theorem precheck_dst {f : Needs} {s : State} (h : precheck f s = none) (hw : f.writesDst = true) :
    s.dstEnd ≤ addressSpace := by
  unfold precheck at h
  repeat' split at h
  all_goals simp_all

theorem withSrc_ok {s : State} {n : Nat} {body : Bytes → CmdResult} (h : SrcReadable s n) :
    withSrc s n body = body (s.mem.bytes s.srcAddr.toNat n) := by
  simp [withSrc, readSpan_ok h]

theorem withSrc_fault {s : State} {n k : Nat} {body : Bytes → CmdResult} (hk : k < n)
    (hbad : s.platform.rdOk (s.srcAddr.toNat + k) = false) (h : SrcReadable s k) :
    withSrc s n body = .err s .busRd (BitVec.ofNat 32 (s.srcAddr.toNat + k)) := by
  simp [withSrc, readSpan_fault hk hbad h]

theorem put_overflow {s : State} {out : Bytes} (h : s.dstCap.toNat < out.length) : put s out = .err s .overflow 0 := by
  simp [put, h]

theorem put_busWr {s : State} {out : Bytes} {k : Nat} (hc : out.length ≤ s.dstCap.toNat) (hk : k < out.length)
    (hbad : s.platform.wrOk (s.dstAddr.toNat + k) = false)
    (h : ∀ j, j < k → s.platform.wrOk (s.dstAddr.toNat + j) = true) :
    put s out = .err s .busWr (BitVec.ofNat 32 (s.dstAddr.toNat + k)) := by
  simp [put, Nat.not_lt.2 hc, badWrite_some hk hbad h]

theorem put_ok {s : State} {out : Bytes} (h : DstWritable s out.length) : put s out = .ok s out := by
  obtain ⟨hc, hw⟩ := h
  simp [put, Nat.not_lt.2 hc, badWrite_none hw]

/-- Everything `put` can answer. -/
theorem put_cases (s : State) (out : Bytes) :
    (out.length ≤ s.dstCap.toNat ∧ put s out = .ok s out) ∨ put s out = .err s .overflow 0 ∨
      ∃ a, put s out = .err s .busWr a := by
  unfold put
  split
  · exact .inr (.inl rfl)
  · split
    · exact .inr (.inr ⟨_, rfl⟩)
    · exact .inl ⟨by omega, rfl⟩

@[simp] theorem onOk_ok (s : State) (out : Bytes) (f : State → State) :
    (CmdResult.ok s out).onOk f = .ok (f s) out := rfl

@[simp] theorem onOk_err (s : State) (c : ErrCode) (i : Word) (f : State → State) :
    (CmdResult.err s c i).onOk f = .err s c i := rfl

@[simp] theorem complete_ok (s : State) (out : Bytes) : complete (.ok s out) = completeOk s out := rfl

@[simp] theorem complete_err (s : State) (c : ErrCode) (i : Word) : complete (.err s c i) = raiseError s c i := rfl

/-- The existing bytes of the DST window end inside the address space and inside the window. -/
theorem dstSpan_le (s : State) : s.dstAddr.toNat + s.dstSpan ≤ addressSpace ∧ s.dstSpan ≤ s.dstCap.toNat := by
  have := s.dstAddr.isLt
  unfold State.dstSpan addressSpace
  omega

end Sys2Proof.Machine
end

