-- ==== Sys2Proof/Laws/Exec.lean ====
section
/-! SUPPORT. What a command can do, said once for all thirteen: the shape of its result, and from it the shape of the state
after the engine's transition. Whole-machine claims follow from these and unfold no command. -/

namespace Sys2Proof.Machine

/-- How a command's pseudocode ends, command by command (R87). -/
def resultOf : Instr → State → CmdResult
  | .nop, s => .ok s []
  | .crcInit, s => .ok { s with crcState := crcOnes } []
  | .crcByte b, s => .ok { s with crcState := crcStep s.crcState b } []
  | .crcBuf, s => crcBufResult s
  | .size, s => .ok { s with width := BitVec.ofNat 16 (size s.srcLen.toNat) } []
  | .pack, s => packResult s
  | .zlib, s => zlibResult s
  | .chunk, s => chunkResult s
  | .ihdr, s => ihdrResult s
  | .idat, s => idatResult s
  | .iend, s => iendResult s
  | .sig, s => sigResult s
  | .encode, s => encodeResult s

/-- Every command completes: `exec` always answers the completion of its result. -/
theorem exec_eq (i : Instr) (s : State) : exec i s = .next (complete (resultOf i s)) := by
  cases i <;> rfl

/-- A command's register writes: `u` is `s` but for CRC_STATE, WIDTH, XHST and LATCH. -/
def Agrees (s u : State) : Prop :=
  u = { s with crcState := u.crcState, width := u.width, xhst := u.xhst, latch := u.latch }

theorem agrees_refl (s : State) : Agrees s s := rfl

theorem agrees_update (s : State) (c : Word) (w : BitVec 16) (x l : Bool) :
    Agrees s { s with crcState := c, width := w, xhst := x, latch := l } := rfl

/-- An error a command can raise: never code 0, and an address only with codes 5 and 8 (R201). -/
def ErrShape (c : ErrCode) (info : Word) : Prop := c ≠ .none ∧ (c.hasAddr = false → info = 0)

/-- What a command's result can be, from state `s`: register writes as `Agrees` says, an output that fits an existing DST
window, an error as `ErrShape` says. -/
def ResultShape (s : State) : CmdResult → Prop
  | .ok u out => Agrees s u ∧ out.length ≤ s.dstCap.toNat ∧ (out = [] ∨ s.dstEnd ≤ addressSpace)
  | .err u c info => Agrees s u ∧ ErrShape c info

theorem shape_ok_nil {s u : State} (h : Agrees s u) : ResultShape s (.ok u []) :=
  ⟨h, Nat.zero_le _, .inl rfl⟩

theorem shape_checked {f : Needs} {s : State} {body : CmdResult}
    (h : precheck f s = none → ResultShape s body) : ResultShape s (checked f s body) := by
  unfold checked
  split
  · next e he =>
    refine ⟨agrees_refl s, ?_, fun _ => rfl⟩
    rcases precheck_code he with rfl | rfl | rfl <;> decide
  · next he => exact h he

theorem shape_withSrc {s u : State} {n : Nat} {body : Bytes → CmdResult} (hu : Agrees s u)
    (h : ∀ bs, ResultShape s (body bs)) : ResultShape s (withSrc u n body) := by
  unfold withSrc
  split
  · exact h _
  · exact ⟨hu, by decide, fun h => absurd h (by decide)⟩

theorem shape_withZlib {s u : State} {d : Bytes} {body : Bytes → CmdResult} (hu : Agrees s u)
    (h : ∀ z, ResultShape s (body z)) : ResultShape s (withZlib u d body) := by
  unfold withZlib
  split
  · exact ⟨hu, by decide, fun _ => rfl⟩
  · exact h _

theorem shape_put {s u : State} {out : Bytes} (hu : Agrees s u) (hd : s.dstEnd ≤ addressSpace) :
    ResultShape s (put u out) := by
  have hcap : u.dstCap = s.dstCap := by rw [hu]
  rcases put_cases u out with ⟨hl, h⟩ | h | ⟨a, h⟩ <;> rw [h]
  · exact ⟨hu, by rwa [hcap] at hl, .inr hd⟩
  · exact ⟨hu, by decide, fun _ => rfl⟩
  · exact ⟨hu, by decide, fun h => absurd h (by decide)⟩

theorem shape_onOk {s : State} {r : CmdResult} {f : State → State} (h : ResultShape s r)
    (hf : ∀ u, Agrees s u → Agrees s (f u)) : ResultShape s (r.onOk f) := by
  cases r with
  | ok u out => exact ⟨hf u h.1, h.2⟩
  | err u c i => exact h

theorem agrees_set {s u : State} (h : Agrees s u) (c : Word) (x : Bool) :
    Agrees s { u with crcState := c, xhst := x } := by
  unfold Agrees at *
  rw [h]

theorem shape_putChunk {s u : State} {t d : Bytes} (hu : Agrees s u) (hd : s.dstEnd ≤ addressSpace) :
    ResultShape s (putChunk u t d) :=
  shape_onOk (shape_put hu hd) fun v hv => agrees_set hv _ v.xhst

/-- The shape of every command's result. -/
theorem resultOf_shape (i : Instr) (s : State) : ResultShape s (resultOf i s) := by
  cases i with
  | nop => exact shape_ok_nil rfl
  | crcInit => exact shape_ok_nil rfl
  | crcByte b => exact shape_ok_nil rfl
  | size => exact shape_ok_nil rfl
  | crcBuf =>
    refine shape_checked fun _ => ?_
    split
    · exact shape_ok_nil rfl
    · exact ⟨rfl, by decide, fun h => absurd h (by decide)⟩
  | pack =>
    refine shape_checked fun hp => shape_withSrc rfl fun bs => ?_
    exact shape_onOk (shape_put rfl (precheck_dst hp rfl)) fun u hu => agrees_set hu u.crcState _
  | zlib =>
    exact shape_checked fun hp => shape_withSrc rfl fun d => shape_withZlib rfl fun z => shape_put rfl (precheck_dst hp rfl)
  | chunk =>
    exact shape_checked fun hp => shape_withSrc rfl fun d => shape_putChunk rfl (precheck_dst hp rfl)
  | ihdr => exact shape_checked fun hp => shape_putChunk rfl (precheck_dst hp rfl)
  | idat =>
    refine shape_checked fun hp => shape_withSrc rfl fun bs => shape_withZlib rfl fun z => ?_
    exact shape_onOk (shape_putChunk rfl (precheck_dst hp rfl)) fun u hu => agrees_set hu u.crcState _
  | iend => exact shape_checked fun hp => shape_putChunk rfl (precheck_dst hp rfl)
  | sig => exact shape_checked fun hp => shape_put rfl (precheck_dst hp rfl)
  | encode =>
    refine shape_checked fun hp => shape_withSrc rfl fun bs => shape_withZlib rfl fun z => ?_
    exact shape_onOk (shape_put rfl (precheck_dst hp rfl)) fun u hu => agrees_set hu _ _

/-- What the engine's transition can do: a successful or an error completion of some `u` that agrees with `s`. -/
theorem exec_cases {i : Instr} {s t : State} (h : exec i s = .next t) :
    (∃ u out, t = completeOk u out ∧ resultOf i s = .ok u out ∧ Agrees s u ∧ out.length ≤ s.dstCap.toNat ∧
      (out = [] ∨ s.dstEnd ≤ addressSpace)) ∨
    (∃ u c info, t = raiseError u c info ∧ resultOf i s = .err u c info ∧ Agrees s u ∧ ErrShape c info) := by
  rw [exec_eq] at h
  have ht : complete (resultOf i s) = t := by injection h
  have hs := resultOf_shape i s
  cases hr : resultOf i s with
  | ok u out => rw [hr] at ht hs; exact .inl ⟨u, out, ht.symm, rfl, hs⟩
  | err u c info => rw [hr] at ht hs; exact .inr ⟨u, c, info, ht.symm, rfl, hs⟩

/-- Everything the engine's turn can do. -/
theorem engineTurn_cases (s : State) :
    (s.eng = .idle ∧ engineTurn s = .next s) ∨
    (∃ i, s.eng = .busy ∧ decode s.cur = some i ∧ Admitted s i ∧ engineTurn s = exec i s) ∨
    (∃ i, s.eng = .busy ∧ decode s.cur = some i ∧ ¬Admitted s i ∧ engineTurn s = .refused .rangeInRegisterWindow) ∨
    (s.eng = .busy ∧ decode s.cur = none ∧ engineTurn s = .next (raiseError s .illegalCmd 0)) := by
  unfold engineTurn
  cases he : s.eng with
  | idle => exact .inl ⟨rfl, rfl⟩
  | busy =>
    cases hd : decode s.cur with
    | none => exact .inr (.inr (.inr ⟨rfl, rfl, rfl⟩))
    | some i =>
      by_cases ha : admits s i = true
      · exact .inr (.inl ⟨i, rfl, rfl, admits_iff.1 ha, if_pos ha⟩)
      · exact .inr (.inr (.inl ⟨i, rfl, rfl, fun h => ha (admits_iff.2 h), if_neg ha⟩))

end Sys2Proof.Machine
end

