-- ==== Sys2Proof/Laws/Scanline.lean ====
section
/-! SUPPORT. The square root of R120, and the size and latch of the raster loops of R123. -/

namespace Sys2Proof.Machine

/-! ### The square root -/

/-- The bits found are those of the square root rounded down. -/
theorem sqrtBits_spec {p k r : Nat} (h1 : r * r ≤ p) (h2 : p < (r + 2 ^ k) * (r + 2 ^ k)) :
    sqrtBits p k r * sqrtBits p k r ≤ p ∧ p < (sqrtBits p k r + 1) * (sqrtBits p k r + 1) := by
  induction k generalizing r with
  | zero => exact ⟨h1, by simpa [sqrtBits] using h2⟩
  | succ k ih =>
    have e : r + 2 ^ (k + 1) = r + 2 ^ k + 2 ^ k := by rw [Nat.pow_succ]; omega
    simp only [sqrtBits]
    split
    · next h => exact ih h (by rwa [e] at h2)
    · next h => exact ih h1 (by omega)

/-- `sqrtBits` as `sqrtCeil` calls it. -/
theorem sqrtBits_top (p : Nat) :
    sqrtBits p (p.log2 / 2 + 1) 0 * sqrtBits p (p.log2 / 2 + 1) 0 ≤ p ∧
      p < (sqrtBits p (p.log2 / 2 + 1) 0 + 1) * (sqrtBits p (p.log2 / 2 + 1) 0 + 1) := by
  refine sqrtBits_spec (Nat.zero_le _) ?_
  have h1 : p < 2 ^ (p.log2 + 1) := Nat.lt_log2_self
  have h2 : 2 ^ (p.log2 + 1) ≤ 2 ^ (p.log2 / 2 + 1 + (p.log2 / 2 + 1)) := Nat.pow_le_pow_right (by omega) (by omega)
  rw [Nat.zero_add, ← Nat.pow_add]
  omega

/-- `sqrtCeil` is an integer whose square reaches `p`. -/
theorem le_sqrtCeil_sq (p : Nat) : p ≤ sqrtCeil p * sqrtCeil p := by
  obtain ⟨h1, h2⟩ := sqrtBits_top p
  unfold sqrtCeil
  split <;> omega

/-- No smaller integer will do. -/
theorem sqrtCeil_le {p r : Nat} (h : p ≤ r * r) : sqrtCeil p ≤ r := by
  obtain ⟨h1, h2⟩ := sqrtBits_top p
  unfold sqrtCeil
  split
  · next h3 =>
    by_contra hc
    exact absurd (Nat.mul_self_le_mul_self (by omega : r ≤ sqrtBits p (p.log2 / 2 + 1) 0)) (by omega)
  · next h3 =>
    by_contra hc
    exact absurd (Nat.mul_self_lt_mul_self (by omega : r < sqrtBits p (p.log2 / 2 + 1) 0)) (by omega)

/-! ### Lengths -/

@[simp] theorem length_rasterPixel (inp : Bytes) (n : Nat) (m : BitVec 2) (o : Nat) (l : Bool) :
    (rasterPixel inp n m o l).1.length = 3 := rfl

@[simp] theorem length_rasterRow (inp : Bytes) (n S : Nat) (m : BitVec 2) (i j k : Nat) (l : Bool) :
    (rasterRow inp n S m i j k l).1.length = 3 * k := by
  induction k generalizing j l with
  | zero => rfl
  | succ k ih => simp [rasterRow, ih]; omega

@[simp] theorem length_rasterRows (inp : Bytes) (n S : Nat) (m : BitVec 2) (i k : Nat) (l : Bool) :
    (rasterRows inp n S m i k l).1.length = k * (3 * S + 1) := by
  induction k generalizing i l with
  | zero => simp [rasterRows]
  | succ k ih => simp [rasterRows, ih]; ring

/-! ### One loop over all pixels: the latch and the bytes do not see the row structure but for the filter bytes -/

/-- In mode 2 no pixel sets the latch (R126). -/
theorem rasterPixel_latch_two (inp : Bytes) (n o : Nat) (l : Bool) : (rasterPixel inp n 2 o l).2 = l := by
  simp [rasterPixel]

/-- In modes 0 and 1 a pixel sets the latch when its blue offset is out of bounds (R124, R125). -/
theorem rasterPixel_latch {inp : Bytes} {n o : Nat} {m : BitVec 2} {l : Bool} (h : m = 0 ∨ m = 1) :
    (rasterPixel inp n m o l).2 = (l || decide (n ≤ o + 2)) := by
  rcases h with rfl | rfl <;> simp [rasterPixel]

/-- The bytes of a pixel, channel by channel (R123). -/
theorem rasterPixel_bytes (inp : Bytes) (n : Nat) (m : BitVec 2) (o : Nat) (l : Bool) :
    (rasterPixel inp n m o l).1 =
      (List.range 3).map fun c =>
        if !(l || (m == 1 && decide (n ≤ o + 2))) && decide (o + c < n) then inp.getD (o + c) 0 else 0 := by
  simp [rasterPixel, List.range_succ]

end Sys2Proof.Machine
end

