-- ==== Sys2Proof/Laws/File.lean ====
section
/-! SUPPORT. The lengths of what the commands build: rasters, chunks and files. -/

namespace Sys2Proof.Machine

/-- A raster has `(3S + 1) * S` bytes (R122). -/
theorem length_filled (s : State) (S : Nat) : (filled s S).1.length = (3 * S + 1) * S := by
  unfold filled raster
  rw [length_rasterRows, Nat.mul_comm]

/-- R160's length, whatever the tag's. -/
theorem length_chunk (t d : Bytes) : (chunk t d).length = 8 + t.length + d.length := by
  simp only [chunk, be32, List.length_append, List.length_cons, List.length_nil]
  omega

/-- R185's length. -/
theorem length_fileOf (S : Nat) (z : Bytes) : (fileOf S z).length = 57 + z.length := by
  simp only [fileOf, length_chunk, pngSignature, tagIHDR, tagIDAT, tagIEND, ihdrData, be32, List.length_append,
    List.length_cons, List.length_nil]
  omega

/-- The number of bytes the raster commands read is the read set of R129. -/
theorem readCountFor_eq (s : State) (S : Nat) : s.readCountFor S = rasterReads s S := rfl

end Sys2Proof.Machine
end

