-- ==== Sys2Proof/Laws/HostPort.lean ====
section
/-! SUPPORT. The register port and the host's statements: what the port selects, and everything a host turn can do. -/

namespace Sys2Proof.Machine

theorem regAt_offset (r : RegName) : regAt r.offset = some r := by
  cases r <;> rfl

theorem offset_aligned (r : RegName) : r.offset.toNat % 4 = 0 := by
  cases r <;> rfl

theorem toNat_regAddr (p : Platform) (r : RegName) : (p.regAddr r).toNat = p.regBase.toNat * 256 + r.offset.toNat := by
  unfold Platform.regAddr
  rw [BitVec.toNat_append, Nat.shiftLeft_eq, Nat.mul_comm, ← Nat.two_pow_add_eq_or_of_lt r.offset.isLt]

/-- A register's bus address selects that register (R24). -/
theorem portSelect_regAddr (p : Platform) (r : RegName) : portSelect p (p.regAddr r) .word = some (some r) := by
  have h := toNat_regAddr p r
  have hr := r.offset.isLt
  have ha := offset_aligned r
  have hw : p.inWindow (p.regAddr r).toNat = true := by
    simp only [Platform.inWindow, beq_iff_eq]
    omega
  have ho : (p.regAddr r).extractLsb' 0 8 = r.offset := by
    apply BitVec.eq_of_toNat_eq
    rw [BitVec.extractLsb'_toNat, h]
    simp only [Nat.shiftRight_zero]
    omega
  unfold portSelect
  rw [if_pos ⟨rfl, hw, by omega⟩, ho, regAt_offset]

/-- An access that is not an aligned word in the window selects nothing (R42). -/
theorem portSelect_none {p : Platform} {addr : Word} {size : AccessSize}
    (h : size ≠ .word ∨ p.inWindow addr.toNat = false ∨ addr.toNat % 4 ≠ 0) : portSelect p addr size = none := by
  unfold portSelect
  rw [if_neg]
  rintro ⟨h1, h2, h3⟩
  rcases h with h | h | h <;> simp_all

theorem portWrite_regAddr {s : State} (h : s.rst = false) (r : RegName) (v : Word) :
    portWrite s (s.platform.regAddr r) .word v = (writeReg s v r).answer .ack := by
  simp [portWrite, h, portSelect_regAddr, regWrite]

theorem portRead_regAddr (s : State) (r : RegName) :
    portRead s (s.platform.regAddr r) .word = regRead s (some r) := by
  simp [portRead, portSelect_regAddr]

/-- The low bits of a STATUS word (R28): BUSY, which WAIT looks at (R89), DONE, IGN and XHST. -/
theorem statusOf_bits (e : BitVec 4) (x i d b : Bool) :
    (statusOf e x i d b).getLsbD 0 = b ∧ (statusOf e x i d b).getLsbD 1 = d ∧
    (statusOf e x i d b).getLsbD 2 = i ∧ (statusOf e x i d b).getLsbD 3 = x := by
  revert e
  cases x <;> cases i <;> cases d <;> cases b <;> decide

/-- While `rst` is asserted a write is answered as always and changes nothing. -/
theorem portWrite_held {s : State} (h : s.rst = true) (addr : Word) (size : AccessSize) (v : Word) :
    portWrite s addr size v = s.answer (if (portSelect s.platform addr size).isSome then .ack else .busError) := by
  unfold portWrite
  cases portSelect s.platform addr size with
  | none => rfl
  | some r => cases r <;> simp [regWrite, h]

/-- A register read changes only the model's own fields (R44). -/
theorem portRead_keeps (s : State) (addr : Word) (size : AccessSize) :
    ∃ r d, portRead s addr size = { s.answer r with draws := d } := by
  unfold portRead
  cases portSelect s.platform addr size with
  | none => exact ⟨.busError, s.draws, rfl⟩
  | some r =>
    refine ⟨.word (s.regValue r), (if s.busyBit then s.drawn else s).draws, ?_⟩
    simp only [regRead]
    split <;> rfl

theorem step_host {s : State} (h : s.nextAgent = .host) : step s = hostTurn s.popTurn := by
  simp [step, h]

theorem step_engine {s : State} (h : s.nextAgent = .engine) : step s = engineTurn s.popTurn := by
  simp [step, h]

/-- When the host moves next, its next statement is the head of `host` and the step is its turn. -/
theorem step_hostNext {s : State} {st : HostStmt} (h : HostNext s st) :
    ∃ rest, s.host = st :: rest ∧ step s = hostTurn s.popTurn := by
  obtain ⟨h1, h2⟩ := h
  cases hh : s.host with
  | nil => simp [hh] at h2
  | cons a rest =>
    simp only [hh, List.head?_cons, Option.some.injEq] at h2
    exact ⟨rest, by rw [h2], step_host h1⟩

/-- A `WR` to a register, end to end. -/
theorem step_writeTo {s : State} {r : RegName} {v : Word} (h : PortNext s (.writeTo s.platform r v)) :
    step s = .next ((writeReg s.popTurn.popHost v r).answer .ack) := by
  obtain ⟨rest, hh, e⟩ := step_hostNext h.1
  have hp : s.popTurn.popHost.platform = s.platform := rfl
  simp only [e, hostTurn, State.popTurn_host, hh, HostStmt.writeTo]
  rw [← hp, portWrite_regAddr (by exact h.2)]

/-- An `RD` of a register, end to end. -/
theorem step_readFrom {s : State} {r : RegName} (h : HostNext s (.readFrom s.platform r)) :
    step s = .next (regRead s.popTurn.popHost (some r)) := by
  obtain ⟨rest, hh, e⟩ := step_hostNext h
  have hp : s.popTurn.popHost.platform = s.platform := rfl
  simp only [e, hostTurn, State.popTurn_host, hh, HostStmt.readFrom]
  rw [← hp, portRead_regAddr]

/-- A byte of the register window among the first `n + 1` bytes from `a` is the first of them or a later one. -/
theorem exists_inWindow_succ {p : Platform} {a n : Nat} :
    (∃ k, k < n + 1 ∧ p.inWindow (a + k) = true) ↔
      p.inWindow a = true ∨ ∃ k, k < n ∧ p.inWindow (a + 1 + k) = true := by
  constructor
  · rintro ⟨k, hk, hw⟩
    cases k with
    | zero => exact .inl hw
    | succ k => exact .inr ⟨k, by omega, by rwa [show a + 1 + k = a + (k + 1) by omega]⟩
  · rintro (h | ⟨k, hk, hw⟩)
    · exact ⟨0, by omega, h⟩
    · exact ⟨k + 1, by omega, by rwa [show a + (k + 1) = a + 1 + k by omega]⟩

/-- Everything the host's stores do: the memory stays canonical, the answer is an error response exactly when some byte lies
in the register window, no byte outside them or in the window changes, and the others are stored. -/
theorem storeBytes_spec {p : Platform} {m : Memory} {r : Reply} {a : Nat} {bs : Bytes}
    (h : a + bs.length ≤ addressSpace) :
    (m.wf = true → (storeBytes p m r a bs).1.wf = true) ∧
    (storeBytes p m r a bs).2 = (if ∃ k, k < bs.length ∧ p.inWindow (a + k) = true then .busError else r) ∧
    (∀ x, x < a ∨ a + bs.length ≤ x ∨ p.inWindow x = true → (storeBytes p m r a bs).1.read x = m.read x) ∧
    (m.wf = true → ∀ k, k < bs.length → p.inWindow (a + k) = false →
      (storeBytes p m r a bs).1.read (a + k) = bs.getD k 0) := by
  induction bs generalizing m r a with
  | nil => simp [storeBytes]
  | cons b bs ih =>
    simp only [List.length_cons] at h ⊢
    simp only [storeBytes]
    split
    · next hw =>
      obtain ⟨h0, h1, h2, h3⟩ := ih (m := m) (r := .busError) (a := a + 1) (by omega)
      refine ⟨h0, by rw [h1, if_pos (exists_inWindow_succ.2 (.inl hw)), ite_self], fun x hx => ?_, fun hm k hk hn => ?_⟩
      · by_cases e : x = a
        · exact h2 x (.inr (.inr (e ▸ hw)))
        · exact h2 x (hx.imp (by omega) (.imp (by omega) id))
      · cases k with
        | zero => simp [hw] at hn
        | succ k =>
          rw [show a + (k + 1) = a + 1 + k by omega] at hn ⊢
          exact h3 hm k (by omega) hn
    · next hw =>
      obtain ⟨h0, h1, h2, h3⟩ := ih (m := m.write a b) (r := r) (a := a + 1) (by omega)
      have hwf : m.wf = true → (m.write a b).wf = true := fun hm => Memory.wf_write hm (by omega)
      refine ⟨fun hm => h0 (hwf hm), by rw [h1]; simp only [exists_inWindow_succ, eq_false hw, false_or], fun x hx => ?_,
        fun hm k hk hn => ?_⟩
      · have hne : x ≠ a := by
          rintro rfl
          rcases hx with h | h | h
          · omega
          · omega
          · exact hw h
        rw [h2 x (hx.imp (by omega) (.imp (by omega) id)), Memory.read_write_other hne]
      · cases k with
        | zero =>
          rw [h2 _ (by omega)]
          exact Memory.read_write_same hm
        | succ k =>
          rw [show a + (k + 1) = a + 1 + k by omega] at hn ⊢
          exact h3 (hwf hm) k (by omega) hn

/-- Outside the register window the host's stores are a plain store. -/
theorem storeBytes_outside {p : Platform} {m : Memory} {r : Reply} {a : Nat} {bs : Bytes}
    (h : ∀ k, k < bs.length → p.inWindow (a + k) = false) : storeBytes p m r a bs = (m.store a bs, r) := by
  induction bs generalizing m a with
  | nil => rfl
  | cons b bs ih =>
    have h0 : p.inWindow a = false := h 0 (by simp)
    simp only [storeBytes, h0, Memory.store]
    exact ih fun k hk => by
      have := h (k + 1) (by simpa using hk)
      rwa [show a + 1 + k = a + (k + 1) by omega]

/-- `touchesRanges` finds any byte of the two ranges. -/
theorem touchesRanges_iff {s : State} {a n : Nat} :
    touchesRanges s a n = true ↔ ∃ k, k < n ∧ (s.inSrc (a + k) = true ∨ s.inDst (a + k) = true) := by
  induction n generalizing a with
  | zero => simp [touchesRanges]
  | succ n ih =>
    simp only [touchesRanges, Bool.or_eq_true, ih]
    constructor
    · rintro (h | ⟨k, hk, h⟩)
      · exact ⟨0, by omega, by simpa using h⟩
      · exact ⟨k + 1, by omega, by rwa [show a + (k + 1) = a + 1 + k by omega]⟩
    · rintro ⟨k, hk, h⟩
      cases k with
      | zero => exact .inl (by simpa using h)
      | succ k => exact .inr ⟨k, by omega, by rwa [show a + 1 + k = a + (k + 1) by omega]⟩

/-! ### The invariant through the parts of a host turn -/

/-- A block that was just reset meets the invariant, whatever the reset input's level. -/
theorem inv_resetBlock {s : State} (level : Bool) (h : s.mem.wf = true) : Inv { s.resetBlock with rst := level } := by
  have hm : s.resetBlock.mem.wf = true := by
    rw [State.resetBlock_mem]
    split
    · exact Memory.wf_havoc h (dstSpan_le s).1
    · exact h
  refine ⟨hm, ?_, ?_, ?_, ?_⟩
  · intro hb
    exact absurd (show Eng.idle = Eng.busy from (State.resetBlock_eng s).symm.trans hb) (by decide)
  · exact fun _ => State.resetBlock_outLen s
  · exact fun _ _ => State.resetBlock_errAddr s
  · rintro rfl
    unfold State.resetBlock State.clearBlock
    split <;> rfl

/-- With `rst` released, the last clause of the invariant asks nothing. -/
theorem inv_released {s : State} (hr : s.rst = false) :
    Inv s ↔ s.mem.wf = true ∧
      (s.eng = .busy → s.done = false ∧ s.errcode = .none ∧ s.outLen = 0 ∧ s.errAddr = 0) ∧
      (s.errcode ≠ .none → s.outLen = 0) ∧ (s.errcode ≠ .busRd → s.errcode ≠ .busWr → s.errAddr = 0) := by
  simp [Inv, hr]

theorem inv_accept {s : State} (w : Word) (hr : s.rst = false) (h : Inv s) : Inv (s.accept w) :=
  (inv_released (by exact hr)).2 ⟨h.1, fun _ => ⟨rfl, rfl, rfl, rfl⟩, fun _ => rfl, fun _ _ => rfl⟩

theorem inv_acknowledge {s : State} (v : Word) (hr : s.rst = false) (h : Inv s) : Inv (acknowledge s v) :=
  (inv_released (by exact hr)).2
    ⟨h.1, fun hb => ⟨by simp [acknowledge, (h.2.1 hb).1], (h.2.1 hb).2⟩, h.2.2.1, h.2.2.2.1⟩

end Sys2Proof.Machine
end

