-- ==== Sys2Proof/Laws/PerInstr.lean ====
section
/-! SUPPORT. One statement about every command as syntax: the fields it is encoded with are legal (30_encoding.md R84). -/

namespace Sys2Proof.Laws.FieldsLegal

/-- The fields a command is encoded with pass the check of WellFormed.lean. -/
def Statement (i : Instr) : Prop := i.fields.legal = true

theorem nop : Statement .nop := rfl

theorem crcInit : Statement .crcInit := rfl

theorem crcByte (imm8 : Byte) : Statement (.crcByte imm8) := rfl

theorem crcBuf : Statement .crcBuf := rfl

theorem size : Statement .size := rfl

theorem pack : Statement .pack := rfl

theorem zlib : Statement .zlib := rfl

theorem chunk : Statement .chunk := rfl

theorem ihdr : Statement .ihdr := rfl

theorem idat : Statement .idat := rfl

theorem iend : Statement .iend := rfl

theorem sig : Statement .sig := rfl

theorem encode : Statement .encode := rfl

end Sys2Proof.Laws.FieldsLegal
end

