-- ==== Sys2Proof/Laws/Zlib.lean ====
section
/-! SUPPORT. Reading a stored block back: the bit reader on whole bytes, and the header of one stored block. -/

namespace Sys2Proof.Machine

@[simp] theorem align_zero (bs : Bytes) : BitReader.align ⟨bs, 0⟩ = ⟨bs, 0⟩ := rfl

/-- Sixteen bits from a byte boundary are a little-endian number (R150). -/
theorem field16 (a b : Byte) (bs : Bytes) :
    BitReader.field 16 ⟨a :: b :: bs, 0⟩ = some (a.toNat + 256 * b.toNat, ⟨bs, 0⟩) := by
  have ha : ∀ x : Byte, x.toNat = (x.getLsbD 0).toNat + 2 * ((x.getLsbD 1).toNat + 2 * ((x.getLsbD 2).toNat + 2 *
      ((x.getLsbD 3).toNat + 2 * ((x.getLsbD 4).toNat + 2 * ((x.getLsbD 5).toNat + 2 * ((x.getLsbD 6).toNat + 2 *
      (x.getLsbD 7).toNat)))))) := by decide
  simp only [BitReader.field, BitReader.bit]
  norm_num
  rw [ha a, ha b]
  simp only [← BitVec.getLsbD_eq_getElem]
  ring

theorem le16_cons (n : Nat) (bs : Bytes) :
    le16 (BitVec.ofNat 16 n) ++ bs =
      (BitVec.ofNat 16 n).extractLsb' 0 8 :: (BitVec.ofNat 16 n).extractLsb' 8 8 :: bs := rfl

/-- A 16-bit value read back from its little-endian bytes (R64). -/
theorem field16_le16 (v : BitVec 16) (bs : Bytes) :
    BitReader.field 16 ⟨le16 v ++ bs, 0⟩ = some (v.toNat, ⟨bs, 0⟩) := by
  have h := field16 (v.extractLsb' 0 8) (v.extractLsb' 8 8) bs
  have e : (v.extractLsb' 0 8).toNat + 256 * (v.extractLsb' 8 8).toNat = v.toNat := by
    simp only [BitVec.extractLsb'_toNat, Nat.shiftRight_eq_div_pow]
    have := v.isLt
    omega
  rw [e] at h
  exact h

/-- What a stored block's LEN, NLEN and data give back, from the byte boundary after its header bits (R151). -/
theorem storedBlock_back (rev blk rest : Bytes) (h : blk.length ≤ 65535) (r : BitReader)
    (hr : r.align = ⟨le16 (BitVec.ofNat 16 blk.length) ++ (le16 (~~~BitVec.ofNat 16 blk.length) ++ (blk ++ rest)), 0⟩) :
    storedBlock rev r = some (blk.reverse ++ rev, ⟨rest, 0⟩) := by
  unfold storedBlock
  rw [hr, field16_le16]
  simp only [field16_le16]
  have e1 : (BitVec.ofNat 16 blk.length).toNat = blk.length := by simp; omega
  have e2 : (~~~BitVec.ofNat 16 blk.length).toNat = 65535 - blk.length := by
    rw [BitVec.toNat_not, e1]
  rw [e1, e2]
  simp

/-- The length of `k` stored blocks that hold `d` (R143). -/
theorem length_storedBlocks {k : Nat} {d : Bytes} (h : d.length ≤ 65535 * k) :
    (storedBlocks k d).length = 5 * k + d.length := by
  induction k generalizing d with
  | zero =>
    simp only [Nat.mul_zero, Nat.le_zero, List.length_eq_zero_iff] at h
    simp [storedBlocks, h]
  | succ k ih =>
    rw [storedBlocks, List.length_append, ih (by simp; omega)]
    simp [storedBlockBytes, le16]
    omega

/-- A compressor result that is not the failure of L4 inflates to its input (R144 L2). -/
theorem deflateDefault_cases (d : Bytes) :
    deflateDefault d = none ∨ ∃ b, deflateDefault d = some b ∧ inflate b = some d := by
  unfold deflateDefault
  split
  · exact .inl rfl
  · split
    · next b _ h => exact .inr ⟨b, rfl, h⟩
    · exact .inl rfl

end Sys2Proof.Machine
end

