-- ==== Sys2Proof/Tests/Slice0.lean ====
section
/-! SUPPORT. The model's own tests. Expected values come from the spec: the encodings of 30_encoding.md and the vectors of
95_test_vectors.md, named in each test's comment. The second half shows, for every statement with hypotheses, a state and
operands that meet them together. -/

namespace Sys2Proof.Tests

open Sys2Proof.Machine

/-! ### WellFormed: one ill-formed word's fields for each check of R84 -/

theorem test_legal_refuses_rsvd : (Cmd32.mk 1 0 0x41).legal = false := by decide

theorem test_legal_refuses_reserved_op : (Cmd32.mk 0 0 0x05).legal = false := by decide

theorem test_legal_refuses_imm8 : (Cmd32.mk 0 1 0x00).legal = false := by decide

theorem test_legal_takes_crc_byte_imm8 : (Cmd32.mk 0 0xFF 0x02).legal = true := by decide

/-! ### Decoding: each command's word written out bit by bit from R80 and R83 -/

theorem test_decode_nop : decode 0b00000000000000000000000000000000#32 = some .nop := by decide

theorem test_decode_crcInit : decode 0b00000000000000000000000000000001#32 = some .crcInit := by decide

theorem test_decode_crcByte : decode 0b00000000000000001000000100000010#32 = some (.crcByte 0x81) := by decide

theorem test_decode_crcBuf : decode 0b00000000000000000000000000000011#32 = some .crcBuf := by decide

theorem test_decode_size : decode 0b00000000000000000000000000010000#32 = some .size := by decide

theorem test_decode_pack : decode 0b00000000000000000000000000010001#32 = some .pack := by decide

theorem test_decode_zlib : decode 0b00000000000000000000000000100000#32 = some .zlib := by decide

theorem test_decode_chunk : decode 0b00000000000000000000000000110000#32 = some .chunk := by decide

theorem test_decode_ihdr : decode 0b00000000000000000000000000110001#32 = some .ihdr := by decide

theorem test_decode_idat : decode 0b00000000000000000000000000110010#32 = some .idat := by decide

theorem test_decode_iend : decode 0b00000000000000000000000000110011#32 = some .iend := by decide

theorem test_decode_sig : decode 0b00000000000000000000000001000000#32 = some .sig := by decide

theorem test_decode_encode : decode 0b00000000000000000000000001000001#32 = some .encode := by decide

/-- V-SYS-2 to V-SYS-6: reserved words. -/
theorem test_decode_refuses :
    decode 0x00000100 = none ∧ decode 0x00000005 = none ∧ decode 0x00010041 = none ∧ decode 0x000000FF = none ∧
      decode 0x00000141 = none := by decide

/-- R89: the words of two pseudo-instructions. -/
theorem test_encode : encode (.crcByte 0x49) = 0x00004902 ∧ encode .encode = 0x00000041 := by decide

theorem test_decodeTableWord :
    decodeTableWord 32 0x4902 = some (.crcByte 0x49) ∧ decodeTableWord 8 0x41 = some .encode ∧
      decodeTableWord 64 0x41 = none := by decide

/-! ### One command on a small state -/

/-- STORED mode, the bytes `bs` at 0x1000 as the SRC range, and a DST window of 256 bytes at 0x2000. -/
def stage (bs : Bytes) : State :=
  { State.reset with
    zmode := 1, srcAddr := 0x1000, srcLen := BitVec.ofNat 32 bs.length, dstAddr := 0x2000, dstCap := 0x100
    mem := Memory.store [] 0x1000 bs }

/-- A platform whose memory port cannot reach address `a`. -/
def holeAt (a : Nat) : Platform :=
  { regBase := 0x400000
    regions := [{ lo := 0, size := a, readable := true, writable := true }] ++
      [{ lo := a + 1, size := 2 ^ 32 - 1 - a, readable := true, writable := true }] }

/-- The state after a command. -/
def after (i : Instr) (s : State) : State :=
  match exec i s with
  | .next t => t
  | .fault _ => s
  | .refused _ => s

/-- The first `n` bytes of the DST window. -/
def window (s : State) (n : Nat) : Bytes := s.mem.bytes s.dstAddr.toNat n

/-- V-SYS-1, run as the first command after reset. -/
theorem test_first_command : step (State.reset.withFetchWord 32 0x00000000) = .next { State.reset with done := true } := rfl

/-- V-SYS-1: NOP clears an earlier ERRCODE. -/
theorem test_nop : (after .nop { State.reset with errcode := .overflow }).statusWord = 0x00000002 := by decide +kernel

/-- V-SYS-4, as an accepted word. -/
theorem test_illegal_command :
    step (State.reset.withFetchWord 32 0x00010041) = .next { State.reset with
      cur := 0x00010041, done := true, errcode := .illegalCmd } := rfl

/-- R104's example. -/
theorem test_crcInit : (after .crcInit { State.reset with crcState := 0x12345678 }).crcState = 0xFFFFFFFF := by decide +kernel

/-- V-CRC-10: the second CRC_BYTE of the sequence. -/
theorem test_crcByte :
    (after (.crcByte 0x45) { State.reset with crcState := 0x22FDE946 }).crcState = 0x992BAC53 := by decide +kernel

/-- V-CRC-15. -/
theorem test_crcByte_ff : (after (.crcByte 0xFF) State.reset).crcValue = 0xFF000000 := by decide +kernel

/-- V-CRC-3: "123456789". -/
theorem test_crcBuf :
    (after .crcBuf (stage [0x31, 0x32, 0x33, 0x34, 0x35, 0x36, 0x37, 0x38, 0x39])).crcValue = 0xCBF43926 := by decide +kernel

/-- V-CRC-14: a bus error keeps the fold of the bytes before it. -/
theorem test_crcBuf_bus_error :
    let t := after .crcBuf { stage [0x61, 0x62, 0x63] with platform := holeAt 0x1001 }
    t.statusWord = 0x00000502 ∧ t.errAddr = 0x00001001 ∧ t.crcState = 0x174841BC ∧ t.outLen = 0 := by decide +kernel

/-- The SIZE table: N = 13 and N = 0xFFFFFFFF. -/
theorem test_size :
    (after .size { State.reset with srcLen := 13 }).width = 3 ∧
      (after .size { State.reset with srcLen := 0xFFFFFFFF }).width = 37838 := by decide +kernel

/-- V-PACK-1 in PMODE 0: the row boundary and the latch. -/
theorem test_pack_latch :
    let t := after .pack { stage [1, 2, 3, 4, 5, 6, 7] with width := 2 }
    window t 14 = [0, 1, 2, 3, 4, 5, 6, 0, 7, 0, 0, 0, 0, 0] ∧ t.outLen = 14 ∧ t.statusWord = 0x0000000A := by decide +kernel

/-- V-PACK-2 in PMODE 1: the setting pixel is zero too. -/
theorem test_pack_whole :
    let t := after .pack { stage [0xA1, 0xA2, 0xA3, 0xA4] with width := 2, pmode := 1 }
    window t 14 = [0, 0xA1, 0xA2, 0xA3, 0, 0, 0, 0, 0, 0, 0, 0, 0, 0] ∧ t.xhst = true := by decide +kernel

/-- V-Z-2. -/
theorem test_zlib :
    let t := after .zlib (stage [0x00, 0x0A, 0x14, 0x1E])
    window t 15 = [0x78, 0x01, 0x01, 0x04, 0x00, 0xFB, 0xFF, 0x00, 0x0A, 0x14, 0x1E, 0x00, 0x68, 0x00, 0x3D] ∧
      t.outLen = 15 := by decide +kernel

/-- V-Z-6. -/
theorem test_zlib_illegal_cfg : (after .zlib { stage [] with zmode := 2 }).statusWord = 0x00000202 := by decide +kernel

/-- V-Z-7: a fixed-Huffman block. -/
theorem test_inflate_fixed :
    inflate [0x63, 0xE0, 0x12, 0x91, 0x03, 0x00] = some [0x00, 0x0A, 0x14, 0x1E] := by decide +kernel

/-- R142's second value, "Wikipedia". -/
theorem test_adler32 :
    adler32 [0x57, 0x69, 0x6B, 0x69, 0x70, 0x65, 0x64, 0x69, 0x61] = 0x11E60398 := by decide +kernel

/-- V-CH-1. -/
theorem test_chunk :
    let t := after .chunk { stage [1, 2, 3] with tag := 0x61626364 }
    window t 15 = [0, 0, 0, 3, 0x61, 0x62, 0x63, 0x64, 1, 2, 3, 0x35, 0xBA, 0x02, 0xB8] ∧ t.crcState = 0xCA45FD47 := by decide +kernel

/-- V-CH-12: ranges that overlap by one byte, and ranges that touch. -/
theorem test_chunk_overlap :
    (after .chunk { stage [1, 2, 3] with dstAddr := 0x1002 }).statusWord = 0x00000402 ∧
      (after .chunk { stage [1, 2, 3] with dstAddr := 0x1003 }).statusWord = 0x00000002 := by decide +kernel

/-- V-CH-5. -/
theorem test_ihdr :
    let t := after .ihdr { stage [] with width := 2 }
    window t 25 = [0, 0, 0, 0x0D, 0x49, 0x48, 0x44, 0x52, 0, 0, 0, 2, 0, 0, 0, 2, 8, 2, 0, 0, 0, 0xFD, 0xD4, 0x9A, 0x73] ∧
      t.crcState = 0x022B658C := by decide +kernel

/-- V-CH-11. -/
theorem test_ihdr_overflow :
    let t := after .ihdr { stage [] with dstCap := 24, crcState := 5 }
    t.statusWord = 0x00000702 ∧ t.crcState = 5 := by decide +kernel

/-- V-CH-7. -/
theorem test_idat :
    let t := after .idat { stage [0x0A, 0x14, 0x1E] with width := 1, xhst := true }
    window t 27 = [0, 0, 0, 0x0F, 0x49, 0x44, 0x41, 0x54, 0x78, 0x01, 0x01, 0x04, 0x00, 0xFB, 0xFF, 0x00] ++
        [0x0A, 0x14, 0x1E, 0x00, 0x68, 0x00, 0x3D, 0xE8, 0x0C, 0xBB, 0x83] ∧
      t.outLen = 27 ∧ t.xhst = false ∧ t.crcState = 0x17F3447C := by decide +kernel

/-- V-CH-8. -/
theorem test_idat_empty :
    let t := after .idat (stage [1, 2, 3])
    window t 23 = [0, 0, 0, 0x0B, 0x49, 0x44, 0x41, 0x54, 0x78, 0x01, 0x01, 0x00, 0x00, 0xFF, 0xFF, 0x00, 0x00, 0x00] ++
        [0x01, 0x89, 0xD6, 0xAE, 0x5F] ∧ t.crcState = 0x762951A0 := by decide +kernel

/-- V-CH-10. -/
theorem test_iend :
    let t := after .iend (stage [])
    window t 12 = [0, 0, 0, 0, 0x49, 0x45, 0x4E, 0x44, 0xAE, 0x42, 0x60, 0x82] ∧ t.crcValue = 0xAE426082 := by decide +kernel

/-- V-SIG-1: the window may end at 2^32. -/
theorem test_sig :
    let t := after .sig { stage [] with dstAddr := 0xFFFFFFF8, dstCap := 8 }
    window t 8 = [0x89, 0x50, 0x4E, 0x47, 0x0D, 0x0A, 0x1A, 0x0A] ∧ t.statusWord = 0x00000002 := by decide +kernel

/-- V-SIG-1: and not past it. -/
theorem test_sig_range :
    (after .sig { stage [] with dstAddr := 0xFFFFFFF8, dstCap := 9 }).statusWord = 0x00000302 := by decide +kernel

/-- V-ENC-3: the Adler-32, the two last CRCs and the IEND chunk, and the registers. -/
theorem test_encode_file :
    let t := after .encode (stage [0xA1, 0xA2, 0xA3, 0xA4])
    (window t 82).drop 62 = [0x1D, 0x3C, 0x02, 0x8B, 0x05, 0x7B, 0x85, 0xBD] ++
        [0, 0, 0, 0, 0x49, 0x45, 0x4E, 0x44, 0xAE, 0x42, 0x60, 0x82] ∧
      t.outLen = 82 ∧ t.width = 2 ∧ t.xhst = true := by decide +kernel

/-- V-ENC-9: BUS_WR at its address, and OVERFLOW before it. -/
theorem test_encode_bus_write :
    let s := { stage [0x0A, 0x14, 0x1E] with platform := holeAt 0x2010 }
    (after .encode s).statusWord = 0x00000802 ∧ (after .encode s).errAddr = 0x00002010 ∧
      (after .encode { s with dstCap := 71 }).statusWord = 0x00000702 := by decide +kernel

/-! ### Witnesses: for each statement with hypotheses, a state and operands that meet all of them, clause by clause -/

/-- `s` with `st` as the host's next statement, the host's transition coming next. -/
def facing (s : State) (st : HostStmt) : State := { s with host := [st], turns := [.host] }

/-- A state whose engine is BUSY with CUR = `w`. -/
def busyWith (w : Word) : State := (stage [1, 2, 3]).accept w

/-- The platform of the test states. -/
abbrev plat : Platform := Platform.presumed

theorem witness_LegalWordsAreTheDecodedOnes :
    (busyWith 0x00000100).nextAgent = .engine ∧ (busyWith 0x00000100).eng = .busy ∧
      decode (busyWith 0x00000100).cur = none := by decide

theorem witness_EngineTurnRunsTheDecodedCommand :
    (busyWith 0x00000041).nextAgent = .engine ∧ (busyWith 0x00000041).eng = .busy ∧
      decode (busyWith 0x00000041).cur = some .encode ∧ Admitted (busyWith 0x00000041) .encode :=
  ⟨rfl, rfl, by decide, admits_iff.1 (by decide)⟩

/-- A DST window whose last address is the register window's first. -/
theorem witness_EngineTurnRunsTheDecodedCommand_dst :
    let s := { busyWith 0x00000041 with dstAddr := 0x3FFFFF01 }
    s.nextAgent = .engine ∧ s.eng = .busy ∧ decode s.cur = some .encode ∧ needsOf .encode = some pipelineNeeds ∧
      PrecheckPasses pipelineNeeds s ∧ (plat.regBase ++ 0#8).toNat = 0x40000000 ∧
      s.dstAddr.toNat + s.dstCap.toNat = 0x40000001 := by decide

/-- A SRC range whose first address is the register window's last. -/
theorem witness_EngineTurnRunsTheDecodedCommand_src :
    let s := { busyWith 0x00000003 with srcAddr := 0x400000FF }
    s.nextAgent = .engine ∧ s.eng = .busy ∧ decode s.cur = some .crcBuf ∧ needsOf .crcBuf = some crcBufNeeds ∧
      PrecheckPasses crcBufNeeds s ∧ s.srcAddr.toNat = 0x400000FF ∧ 0 < s.srcLen.toNat := by decide

/-- R243, 93 U15 at the window's ends: one byte inside is refused, one byte beside it is not. -/
theorem test_range_in_window :
    step { busyWith 0x00000040 with dstAddr := 0x3FFFFF01 } = .refused .rangeInRegisterWindow ∧
      step { busyWith 0x00000003 with srcAddr := 0x400000FF } = .refused .rangeInRegisterWindow ∧
      admits { busyWith 0x00000040 with dstAddr := 0x3FFFFF00 } .sig = true ∧
      admits { busyWith 0x00000003 with srcAddr := 0x40000100 } .crcBuf = true ∧
      admits { busyWith 0x00000000 with dstAddr := 0x40000000 } .nop = true := ⟨rfl, rfl, by decide, by decide, rfl⟩

theorem witness_EveryAcceptedCommandEndsAndTheNextIsAccepted :
    let s := { busyWith 0x00000041 with host := [.command plat .nop] }
    (s.eng = .busy ∧ s.rst = false ∧ s.turns = [] ∧ s.host.head? = some (.writeTo s.platform .cmd 0x00000000)) ∧
      ∀ i, decode s.cur = some i → Admitted s i :=
  ⟨by decide, fun i h => by
    obtain rfl : Instr.encode = i := Option.some.inj h
    exact admits_iff.1 (by decide)⟩

theorem witness_StepKeepsTheInvariant :
    Inv (State.reset.withFetchWord 32 0x05) ∧
      step (State.reset.withFetchWord 32 0x05) = .next { State.reset with
        cur := 0x05, done := true, errcode := .illegalCmd } := ⟨by decide, rfl⟩

theorem witness_StepKeepsThePlatform :
    step (State.reset.withFetchWord 32 0x00) = .next { State.reset with done := true } := rfl

theorem witness_HardAndSoftReset_hard_idle :
    HostNext (facing (stage [1]) (.rst true)) (.rst true) ∧ (facing (stage [1]) (.rst true)).eng = .idle := by decide

theorem witness_HardAndSoftReset_hard_busy :
    let s := facing (busyWith 0x41) (.rst true)
    HostNext s (.rst true) ∧ s.eng = .busy ∧ OutsideDst s 0x1FFF ∧ OutsideDst s 0x2100 := by decide

theorem witness_HardAndSoftReset_soft :
    let s := facing (busyWith 0x41) (.writeTo plat .ctrl 0x80000000)
    PortNext s (.writeTo s.platform .ctrl 0x80000000) ∧ (0x80000000 : Word).getLsbD 31 = true := by decide

/-- The state while `rst` is asserted. -/
def held : State := { State.reset with rst := true }

theorem witness_HardAndSoftReset_release : HostNext (facing held (.rst false)) (.rst false) := by decide

theorem witness_HardAndSoftReset_held :
    held.rst = true ∧ HostNext (facing held (.wr 0x4000000C .word 1)) (.wr 0x4000000C .word 1) ∧
      HostNext (facing held (.rd 0x40000000 .word)) (.rd 0x40000000 .word) := by decide

/-- R230, R231: the CMD write is not accepted while `rst` is asserted. R42 and R44 hold there as always. -/
theorem test_reset_held :
    step (facing held (.command plat .nop)) = .next { held with reply := .ack } ∧
      step (facing held (.wr 0x4000000C .byte 0)) = .next { held with reply := .busError } ∧
      step (facing held (.readFrom plat .id)) = .next { held with reply := .word 0x504E4701 } ∧
      step (facing held (.rst false)) = .next State.reset := ⟨rfl, rfl, rfl, rfl⟩

theorem witness_CtrlWriteSetsItsFields :
    (∀ s ∈ [stage [1], busyWith 0x41], PortNext (facing s (.writeTo plat .ctrl 0x7FFFFFFF))
        (.writeTo (facing s (.writeTo plat .ctrl 0x7FFFFFFF)).platform .ctrl 0x7FFFFFFF)) ∧
      (0x7FFFFFFF : Word).getLsbD 31 = false ∧ (stage [1]).eng = .idle ∧ (busyWith 0x41).eng = .busy := by decide

theorem witness_StatusWriteClearsDoneAndIgn :
    ∀ s ∈ [stage [1], busyWith 0x41], PortNext (facing s (.writeTo plat .status 0x2))
      (.writeTo (facing s (.writeTo plat .status 0x2)).platform .status 0x2) := by decide

theorem witness_CmdWriteIsAcceptedWhileIdle :
    (∀ s ∈ [stage [1], busyWith 0x41], PortNext (facing s (.writeTo plat .cmd 0x00))
        (.writeTo (facing s (.writeTo plat .cmd 0x00)).platform .cmd 0x00)) ∧
      (stage [1]).eng = .idle ∧ (busyWith 0x41).eng = .busy := by decide

theorem witness_OperandWritesTakeEffectOnlyWhileIdle :
    ∀ r ∈ [RegName.srcAddr, .srcLen, .dstAddr, .dstCap, .width, .tag], ∀ s ∈ [stage [1], busyWith 0x41],
      PortNext (facing s (.writeTo plat r 0x12345678))
        (.writeTo (facing s (.writeTo plat r 0x12345678)).platform r 0x12345678) := by decide

/-- The bus address at offset `o` of the register window. -/
def portAddr (o : Nat) : Word := BitVec.ofNat 32 (0x40000000 + o)

theorem witness_ReservedAndReadOnlyRegistersIgnoreWrites_write :
    ∀ o ∈ [0x00, 0x20, 0x2C, 0x30, 0x34, 0x38, 0x3C, 0xFC],
      plat.inWindow (portAddr o).toNat = true ∧ (portAddr o).toNat % 4 = 0 ∧
      (0x3C ≤ (portAddr o).toNat % 256 ∨ (portAddr o).toNat % 256 ∈ [0x00, 0x20, 0x2C, 0x30, 0x34, 0x38]) ∧
      HostNext (facing (stage [1]) (.wr (portAddr o) .word 1)) (.wr (portAddr o) .word 1) ∧
      HostNext (facing (busyWith 0x41) (.wr (portAddr o) .word 1)) (.wr (portAddr o) .word 1) := by decide

theorem witness_ReservedAndReadOnlyRegistersIgnoreWrites_read :
    ∀ o ∈ [0x3C, 0xFC],
      plat.inWindow (portAddr o).toNat = true ∧ (portAddr o).toNat % 4 = 0 ∧ 0x3C ≤ (portAddr o).toNat % 256 ∧
      HostNext (facing (stage [1]) (.rd (portAddr o) .word)) (.rd (portAddr o) .word) := by decide

/-- Every register, read while IDLE, while `rst` is asserted, and while BUSY (for RlenRegistersReadTheRasterLength too). -/
theorem witness_IdleAndBusyReads (r : RegName) :
    (∀ s ∈ [stage [1], held], HostNext (facing s (.readFrom plat r)) (.readFrom (facing s (.readFrom plat r)).platform r) ∧
      (facing s (.readFrom plat r)).eng = .idle) ∧
    (HostNext (facing (busyWith 0x41) (.readFrom plat r)) (.readFrom (facing (busyWith 0x41) (.readFrom plat r)).platform r) ∧
      (facing (busyWith 0x41) (.readFrom plat r)).eng = .busy) := by
  cases r <;> decide

theorem witness_NarrowOrMisalignedAccessGetsAnErrorResponse :
    ∀ c ∈ [(0x3FFFFFFC#32, AccessSize.word), (0x40000100#32, .word), (0x40000000#32, .byte), (0x40000004#32, .half),
        (0x40000002#32, .word)], ∀ s ∈ [stage [1], held],
      (plat.inWindow c.1.toNat = false ∨ c.2 ≠ .word ∨ c.1.toNat % 4 ≠ 0) ∧
      HostNext (facing s (.wr c.1 c.2 1)) (.wr c.1 c.2 1) ∧ HostNext (facing s (.rd c.1 c.2)) (.rd c.1 c.2) := by decide

theorem witness_IrqFollowsCompletionAndAcknowledgement_completion :
    let s := { State.reset.withFetchWord 32 0x00 with irqEn := true }
    s.nextAgent = .engine ∧ s.eng = .busy ∧ step s = .next { State.reset with irqEn := true, done := true } :=
  ⟨rfl, rfl, rfl⟩

theorem witness_IrqFollowsCompletionAndAcknowledgement_status :
    let s := facing { State.reset with irqEn := true, done := true } (.writeTo plat .status 0x2)
    PortNext s (.writeTo s.platform .status 0x2) ∧ (0x2 : Word).getLsbD 1 = true ∧ s.irq = true ∧
      step s = .next { State.reset with irqEn := true, reply := .ack } := ⟨by decide, rfl, rfl, rfl⟩

theorem witness_IrqFollowsCompletionAndAcknowledgement_cmd :
    let s := facing { State.reset with irqEn := true, done := true } (.writeTo plat .cmd 0)
    PortNext s (.writeTo s.platform .cmd 0) ∧ s.eng = .idle ∧ s.irq = true ∧
      step s = .next { State.reset with irqEn := true, eng := .busy, reply := .ack } := ⟨by decide, rfl, rfl, rfl⟩

theorem witness_IrqFollowsCompletionAndAcknowledgement_ctrl :
    let s := facing { State.reset with irqEn := true, done := true } (.writeTo plat .ctrl 0)
    PortNext s (.writeTo s.platform .ctrl 0) ∧ (0 : Word).getLsbD 0 = false ∧ s.irq = true ∧
      step s = .next { State.reset with done := true, reply := .ack } := ⟨by decide, rfl, rfl, rfl⟩

theorem witness_HostStoresAreRefusedInBusyRanges_fault :
    HostNext (facing (stage [1]) (.mem 0xFFFFFFFF [1, 2])) (.mem 0xFFFFFFFF [1, 2]) ∧
      2 ^ 32 < (0xFFFFFFFF : Word).toNat + ([1, 2] : Bytes).length := by decide

/-- A store that ends where the SRC range begins is not refused; one byte further is. -/
theorem witness_HostStoresAreRefusedInBusyRanges_refused :
    let s := facing (busyWith 0x41) (.mem 0xFFF [1, 2])
    HostNext s (.mem 0xFFF [1, 2]) ∧ s.eng = .busy ∧ s.inSrc (0xFFF + 1) = true := by decide

theorem witness_HostStoresAreRefusedInBusyRanges_stored :
    let s := facing (busyWith 0x41) (.mem 0xFFE [1, 2])
    HostNext s (.mem 0xFFE [1, 2]) ∧ s.eng = .busy ∧
      (∀ k, k < 2 → s.inSrc (0xFFE + k) = false ∧ s.inDst (0xFFE + k) = false) ∧
      (∀ k, k < 2 → s.platform.inWindow (0xFFE + k) = false) := by decide

/-- A store that ends at the end of the address space, while IDLE. -/
theorem witness_HostStoresAreRefusedInBusyRanges_end :
    let s := facing (stage [1]) (.mem 0xFFFFFFFE [1, 2])
    HostNext s (.mem 0xFFFFFFFE [1, 2]) ∧ s.eng = .idle ∧ (0xFFFFFFFE : Word).toNat + 2 ≤ 2 ^ 32 ∧
      (∀ k, k < 2 → s.platform.inWindow (0xFFFFFFFE + k) = false) := by decide

/-- A store that runs into the register window, released and while `rst` is asserted. -/
theorem witness_HostStoresAreRefusedInBusyRanges_window :
    ∀ s ∈ [facing (stage [1]) (.mem 0x3FFFFFFF [1, 2]), facing held (.mem 0x3FFFFFFF [1, 2])],
      HostNext s (.mem 0x3FFFFFFF [1, 2]) ∧ s.eng = .idle ∧ s.platform.inWindow (0x3FFFFFFF + 1) = true ∧
      s.platform.inWindow (0x3FFFFFFF + 0) = false ∧ s.mem.wf = true := by decide

theorem witness_HostLoadsReadMemory :
    (HostNext (facing (stage [1]) (.ld 0x2000)) (.ld 0x2000) ∧ (stage [1]).eng = .idle) ∧
    (HostNext (facing (busyWith 0x41) (.ld 0x1FFF)) (.ld 0x1FFF) ∧ (busyWith 0x41).inDst 0x1FFF = false) ∧
    (HostNext (facing (busyWith 0x41) (.ld 0x2000)) (.ld 0x2000) ∧ (busyWith 0x41).inDst 0x2000 = true ∧
      (busyWith 0x41).eng = .busy) ∧
    plat.inWindow 0x2000 = false ∧ plat.inWindow 0x1FFF = false ∧
    (∀ s ∈ [stage [1], held], HostNext (facing s (.ld 0x400000FF)) (.ld 0x400000FF)) ∧
    plat.inWindow 0x400000FF = true := by decide

theorem witness_WaitReadsStatusUntilIdle :
    (HostNext (facing (stage [1]) .wait) .wait ∧ (facing (stage [1]) .wait).eng = .idle) ∧
      (HostNext (facing (busyWith 0x41) .wait) .wait ∧ (facing (busyWith 0x41) .wait).eng = .busy) := by decide

theorem witness_CrcInitSetsTheInitialValue :
    (0xFFFFFF01 : Word).extractLsb' 0 8 = 0x01 ∧ (0xFFFFFF01 : Word) ≠ 0x00000001 ∧
      exec .crcInit State.reset = .next (completeOk State.reset []) := ⟨by decide, by decide, rfl⟩

theorem witness_CrcByteFoldsItsByte :
    (0x00010002 : Word).extractLsb' 0 8 = 0x02 ∧ (0x00010002 : Word).extractLsb' 16 16 ≠ 0 := by decide

theorem witness_SizeWritesWidth :
    (0x00000110 : Word).extractLsb' 0 8 = 0x10 ∧ (0x00000110 : Word) ≠ 0x00000010 := by decide

/-- The SRC range may end at 2^32. -/
theorem witness_CrcBufFoldsTheSrcRange_ok :
    let s := { stage [1, 2, 3] with srcAddr := 0xFFFFFFFD }
    s.srcAddr.toNat + s.srcLen.toNat ≤ 2 ^ 32 ∧ SrcReadable s s.srcLen.toNat := by decide

/-- A bus error at the first byte, and one at the last. -/
theorem witness_CrcBufFoldsTheSrcRange_fault :
    ∀ k ∈ [0, 2],
      let s := { stage [1, 2, 3] with platform := holeAt (0x1000 + k) }
      s.srcAddr.toNat + s.srcLen.toNat ≤ 2 ^ 32 ∧ k < s.srcLen.toNat ∧
      s.platform.rdOk (s.srcAddr.toNat + k) = false ∧ SrcReadable s k := by decide

theorem witness_SizeIsTheSmallestDimension : (4 + 2) / 3 ≤ 2 * 2 ∧ 4 ≤ 2 * 2 * 3 ∧ (2 ^ 32 - 1 : Nat) ≤ 2 ^ 32 - 1 := by
  decide

theorem witness_RasterBytesFollowTheMode :
    (∀ m ∈ [0#2, 1#2, 2#2], m ≠ 3) ∧ (0 < 2 ∧ 0 < 3 * 2) ∧ (1 < 2 ∧ 5 < 3 * 2) := by decide

/-- Two inputs that differ only outside PMODE 1's read set. -/
theorem witness_RasterReadsOnlyItsReadSet :
    (1 : BitVec 2) ≠ 3 ∧ ∀ k, k < min (if (1 : BitVec 2) = 1 then 3 * (4 / 3) else 4) (3 * 2 * 2) →
      ([1, 2, 3, 4] : Bytes).getD k 0 = ([1, 2, 3, 5] : Bytes).getD k 0 := by decide

theorem witness_PackWritesTheRaster :
    let s := { stage [1, 2, 3, 4, 5, 6, 7] with width := 2 }
    PrecheckPasses { readsSrc := true, writesDst := true, pmode := true, zmode := false } s ∧
      SrcReadable s (rasterReads s s.width.toNat) ∧
      DstWritable s ((3 * s.width.toNat + 1) * s.width.toNat) := by decide

/-- The stream of V-Z-2. -/
def streamZ2 : Bytes :=
  [0x78, 0x01, 0x01, 0x04, 0x00, 0xFB, 0xFF, 0x00, 0x0A, 0x14, 0x1E, 0x00, 0x68, 0x00, 0x3D]

theorem witness_ZlibBodyInflatesToTheInput :
    ((1 : BitVec 2) = 0 ∨ (1 : BitVec 2) = 1) ∧ zlib [0x00, 0x0A, 0x14, 0x1E] 1 = some streamZ2 ∧
      zlib (filled (stage [0x0A, 0x14, 0x1E]) 1).1 1 = some streamZ2 := by decide +kernel

theorem witness_ZlibWritesTheStream :
    let s := stage [0x00, 0x0A, 0x14, 0x1E]
    PrecheckPasses { readsSrc := true, writesDst := true, pmode := false, zmode := true } s ∧
      SrcReadable s s.srcLen.toNat ∧ zlib (s.srcBytes s.srcLen.toNat) s.zmode = some streamZ2 ∧
      DstWritable s streamZ2.length := by decide +kernel

/-- For each of the three commands. -/
theorem witness_DefaultModeFailsOrInflates :
    ∀ i ∈ [Instr.zlib, .idat, .encode], ∀ f, needsOf i = some f →
      let s := { stage [1, 2, 3] with zmode := 0, width := 1 }
      s.zmode = 0 ∧ (compresses s i).isSome = true ∧ PrecheckPasses f s ∧ SrcReadable s (readSetOf s i) ∧
      (∀ k, k < s.dstCap.toNat → s.platform.wrOk (s.dstAddr.toNat + k) = true) := by
  intro i hi f hf
  simp only [List.mem_cons, List.not_mem_nil, or_false] at hi
  rcases hi with rfl | rfl | rfl <;> obtain rfl := Option.some.inj hf <;> decide +kernel

theorem witness_StoredModeNeverFails :
    (stage [1, 2, 3]).zmode = 1 ∧ ∃ t, exec .encode (stage [1, 2, 3]) = .next t := ⟨rfl, _, rfl⟩

theorem witness_ChunkFrameIsLengthTagDataCrc :
    ([0x61, 0x62, 0x63, 0x64] : Bytes).length = 4 ∧ ([1, 2, 3] : Bytes).length < 2 ^ 32 := by decide

theorem witness_ChunkWritesTheFramedSrcRange :
    let s := { stage [1, 2, 3] with dstAddr := 0x1003, dstCap := 15 }
    PrecheckPasses { readsSrc := true, writesDst := true, pmode := false, zmode := false } s ∧
      SrcReadable s s.srcLen.toNat ∧ DstWritable s (12 + s.srcLen.toNat) := by decide

/-- IHDR's, IEND's, SIG's and the empty ENCODE's hypotheses, with the window ending at 2^32. -/
theorem witness_commands_without_input :
    ∀ n ∈ [25, 12, 8, 68],
      let s := { stage [] with dstAddr := BitVec.ofNat 32 (2 ^ 32 - n), dstCap := BitVec.ofNat 32 n }
      s.dstAddr.toNat + s.dstCap.toNat ≤ 2 ^ 32 ∧ DstWritable s n ∧ s.srcLen = 0 ∧ s.pmode ≠ 3 ∧ s.zmode = 1 := by
  decide +kernel

theorem witness_IdatWritesTheCompressedRaster :
    let s := { stage [0x0A, 0x14, 0x1E] with width := 1 }
    PrecheckPasses { readsSrc := true, writesDst := true, pmode := true, zmode := true } s ∧
      SrcReadable s (rasterReads s s.width.toNat) ∧
      zlib (filled s s.width.toNat).1 s.zmode = some streamZ2 ∧ DstWritable s (12 + streamZ2.length) := by decide +kernel

/-- A success and an error of a chunk-producing command. -/
theorem witness_CrcValueIsTheLastChunksCrc :
    (∃ t, exec .iend (stage []) = .next t ∧ t.errcode = .none) ∧
    (∃ t, exec .iend { stage [] with dstCap := 11 } = .next t ∧ t.errcode ≠ .none) :=
  ⟨⟨after .iend (stage []), rfl, by decide⟩, ⟨after .iend { stage [] with dstCap := 11 }, rfl, by decide⟩⟩

theorem witness_EncodeWritesThePngFile :
    let s := stage [0x0A, 0x14, 0x1E]
    PrecheckPasses { readsSrc := true, writesDst := true, pmode := true, zmode := true } s ∧
      SrcReadable s (rasterReads s (size s.srcLen.toNat)) ∧
      pngFile (s.srcBytes s.srcLen.toNat) s.srcLen.toNat s.pmode s.zmode =
        some (fileOf 1 streamZ2, 1, false) ∧ DstWritable s (fileOf 1 streamZ2).length := by decide +kernel

theorem witness_FileLayoutIsFixed : 37838 < 2 ^ 32 ∧ streamZ2.length < 2 ^ 32 := by decide

theorem witness_PrecheckErrorsComeInOrder_cfg :
    needsOf .encode = some pipelineNeeds ∧ (pipelineNeeds.pmode = true ∧ ({ stage [1] with pmode := 3 } : State).pmode = 3) ∧
      (pipelineNeeds.zmode = true ∧ ({ stage [1] with zmode := 2 } : State).zmode = 2) := by decide

/-- V-ENC-10 and V-SIG-1: a range that ends one byte past 2^32. -/
theorem witness_PrecheckErrorsComeInOrder_range :
    let s := { stage [1] with srcAddr := 0xFFFFFFFF, srcLen := 2 }
    let u := { stage [] with dstAddr := 0xFFFFFFF8, dstCap := 9 }
    needsOf .encode = some pipelineNeeds ∧ needsOf .sig = some writeNeeds ∧
      2 ^ 32 < s.srcAddr.toNat + s.srcLen.toNat ∧ s.pmode ≠ 3 ∧ s.zmode = 1 ∧
      2 ^ 32 < u.dstAddr.toNat + u.dstCap.toNat := by decide

/-- V-CH-12: the ranges share one byte. -/
theorem witness_PrecheckErrorsComeInOrder_overlap :
    let s := { stage [1, 2, 3] with dstAddr := 0x1002 }
    needsOf .chunk = some chunkNeeds ∧ 0 < s.srcLen.toNat ∧ 0 < s.dstCap.toNat ∧
      s.srcAddr.toNat < s.dstAddr.toNat + s.dstCap.toNat ∧ s.dstAddr.toNat < s.srcAddr.toNat + s.srcLen.toNat ∧
      s.srcAddr.toNat + s.srcLen.toNat ≤ 2 ^ 32 ∧ s.dstAddr.toNat + s.dstCap.toNat ≤ 2 ^ 32 := by decide

/-- For each command of the statement, a bus error at the last byte of its read set. -/
theorem witness_BusReadErrorReportsTheLowestAddress :
    ∀ i ∈ [Instr.pack, .zlib, .chunk, .idat, .encode], ∀ f, needsOf i = some f →
      let s := { stage [1, 2, 3] with width := 1, platform := holeAt 0x1002 }
      PrecheckPasses f s ∧ 2 < readSetOf s i ∧ s.platform.rdOk (s.srcAddr.toNat + 2) = false ∧ SrcReadable s 2 := by
  intro i hi f hf
  simp only [List.mem_cons, List.not_mem_nil, or_false] at hi
  rcases hi with rfl | rfl | rfl | rfl | rfl <;> obtain rfl := Option.some.inj hf <;> decide +kernel

/-- The first and the last address of the register window, which BusReadErrorReportsTheLowestAddress and
OverflowBeforeBusWriteError speak of. -/
theorem witness_register_window :
    ∀ a ∈ [0x40000000, 0x400000FF], (plat.regBase ++ 0#8).toNat ≤ a ∧ a < (plat.regBase ++ 0#8).toNat + 256 := by decide

/-- An ENCODE whose output is one byte too long (V-ENC-7), fits with a bus error at its last byte, and fits (V-ENC-2). -/
theorem witness_OverflowBeforeBusWriteError_encode :
    let s := stage [0x0A, 0x14, 0x1E]
    needsOf .encode = some pipelineNeeds ∧ (fileOf 1 streamZ2).length = 72 ∧ zlib (filled s 1).1 s.zmode = some streamZ2 ∧
      size s.srcLen.toNat = 1 ∧ PrecheckPasses pipelineNeeds s ∧ SrcReadable s (readSetOf s .encode) ∧
      s.mem.wf = true ∧ DstWritable s 72 ∧
      (({ s with dstCap := 71 } : State).dstCap.toNat < 72) ∧
      (holeAt 0x2047).wrOk (s.dstAddr.toNat + 71) = false ∧
      (∀ j, j < 71 → (holeAt 0x2047).wrOk (s.dstAddr.toNat + j) = true) := by decide +kernel

theorem witness_OverflowBeforeBusWriteError_builds :
    Builds (stage [0x0A, 0x14, 0x1E]) (fileOf 1 streamZ2) false .encode :=
  ⟨⟨streamZ2, by decide +kernel, by decide +kernel⟩, by decide +kernel⟩

/-- SIG, with an output one byte too long and one that fits: OutputReadsBackFromMemory's hypotheses too. -/
theorem witness_OutputReadsBackFromMemory :
    let s := { stage [] with dstAddr := 0xFFFFFFF8, dstCap := 8 }
    Builds s pngSignature false .sig ∧ needsOf .sig = some writeNeeds ∧ PrecheckPasses writeNeeds s ∧
      SrcReadable s (readSetOf s .sig) ∧ DstWritable s pngSignature.length ∧ s.mem.wf = true ∧
      ({ s with dstCap := 7 } : State).dstCap.toNat < pngSignature.length :=
  ⟨⟨rfl, rfl⟩, by decide, by decide, by decide, by decide +kernel, by decide, by decide⟩

/-- The engine's turn at a command that writes memory; EngineKeepsTheHostsRegisters has the same hypotheses. -/
theorem witness_EngineWritesOnlyTheDstWindow :
    let s := busyWith 0x00000040
    s.nextAgent = .engine ∧ s.eng = .busy ∧ (∃ t, step s = .next t ∧ t.errcode = .none ∧ t.outLen = 8) ∧
      OutsideDst s 0x1FFF ∧ OutsideDst s 0x2100 :=
  ⟨rfl, rfl, ⟨after .sig (busyWith 0x00000040), rfl, by decide, by decide⟩, by decide, by decide⟩

/-- And at a precheck error. -/
theorem witness_EngineWritesOnlyTheDstWindow_precheck :
    let s := { busyWith 0x00000040 with dstAddr := 0xFFFFFFFF }
    s.nextAgent = .engine ∧ s.eng = .busy ∧ (∃ t, step s = .next t ∧ t.errcode = .range) :=
  ⟨rfl, rfl, ⟨after .sig { busyWith 0x00000040 with dstAddr := 0xFFFFFFFF }, rfl, by decide⟩⟩

theorem witness_ResultRegistersChangeOnlyByTheirCommands :
    exec .sig (stage []) = .next (after .sig (stage [])) ∧ (after .sig (stage [])).errcode = .none ∧
      Instr.sig ∉ [Instr.size, .encode] ∧ Instr.sig ∉ [Instr.pack, .idat, .encode] ∧
      Instr.sig ∉ [Instr.chunk, .ihdr, .idat, .iend, .encode] :=
  ⟨rfl, by decide, by decide, by decide, by decide⟩

end Sys2Proof.Tests
end

section
/-! PROOFS. What the register port does at STATUS, and at the offsets whose writes have no effect (10_state.md R29, R41). -/

namespace Sys2Proof.Machine

/-! ### A host access, end to end -/

/-- A `WR` at any bus address, end to end. -/
theorem step_wr {s : State} {addr v : Word} {size : AccessSize} (h : HostNext s (.wr addr size v)) :
    step s = .next (portWrite s.popTurn.popHost addr size v) := by
  obtain ⟨rest, hhost, hstep⟩ := step_hostNext h
  simp only [hstep, hostTurn, State.popTurn_host, hhost]

/-- An `RD` at any bus address, end to end. -/
theorem step_rd {s : State} {addr : Word} {size : AccessSize} (h : HostNext s (.rd addr size)) :
    step s = .next (portRead s.popTurn.popHost addr size) := by
  obtain ⟨rest, hhost, hstep⟩ := step_hostNext h
  simp only [hstep, hostTurn, State.popTurn_host, hhost]

/-! ### What an offset selects -/

/-- An aligned word in the window selects what stands at its offset (R42). -/
theorem portSelect_aligned {p : Platform} {addr : Word} (hw : p.inWindow addr.toNat = true)
    (ha : addr.toNat % 4 = 0) : portSelect p addr .word = some (regAt (addr.extractLsb' 0 8)) :=
  if_pos ⟨rfl, hw, ha⟩

/-- The offset of a bus address from REG_BASE, which is a multiple of 256 (R5, R24). -/
theorem toNat_offset (addr : Word) : (addr.extractLsb' 0 8).toNat = addr.toNat % 256 := by
  rw [BitVec.extractLsb'_toNat, Nat.shiftRight_zero]

/-- The offsets from 0x3C on are reserved (R41): the last register stands at 0x38. -/
theorem regAt_reserved {off : BitVec 8} (h : 0x3C ≤ off.toNat) : regAt off = none := by
  unfold regAt
  split
  case h_16 => rfl
  all_goals omega

/-- The registers that no host write changes (R25, R35, R38 to R40). -/
def readOnlyRegs : List RegName := [.id, .outLen, .crcValue, .rlenLo, .rlenHi, .errAddr]

/-- The offsets of the read-only registers (R24). -/
theorem regAt_readOnly {off : BitVec 8} (h : off.toNat ∈ [0x00, 0x20, 0x2C, 0x30, 0x34, 0x38]) :
    ∃ r ∈ readOnlyRegs, regAt off = some r := by
  simp only [List.mem_cons, List.not_mem_nil, or_false] at h
  rcases h with h | h | h | h | h | h <;> simp [regAt, h, readOnlyRegs]

/-! ### What a write and a read do there -/

theorem writeReg_readOnly {r : RegName} (h : r ∈ readOnlyRegs) (s : State) (v : Word) : writeReg s v r = s := by
  simp only [readOnlyRegs, List.mem_cons, List.not_mem_nil, or_false] at h
  rcases h with rfl | rfl | rfl | rfl | rfl | rfl <;> rfl

/-- A write to a reserved offset or a read-only register is answered and changes nothing, at either level of `rst`. -/
theorem regWrite_ignored {off : BitVec 8}
    (h : 0x3C ≤ off.toNat ∨ off.toNat ∈ [0x00, 0x20, 0x2C, 0x30, 0x34, 0x38]) (s : State) (v : Word) :
    regWrite s (regAt off) v = s.answer .ack := by
  rcases h with h | h
  · rw [regAt_reserved h]
    rfl
  · obtain ⟨r, hr, hoff⟩ := regAt_readOnly h
    simp only [hoff, regWrite, writeReg_readOnly hr, ite_self]

/-- A register read answers the register's value and changes nothing but the model's own count of draws (R44; log 6). -/
theorem regRead_eq (s : State) (r : Option RegName) :
    regRead s r =
      { s.answer (.word (s.regValue r)) with draws := if s.busyBit then s.draws + 1 else s.draws } := by
  unfold regRead
  split <;> rfl

/-- A write to STATUS clears DONE and IGN where it has a 1 (R29). -/
theorem acknowledge_eq (s : State) (v : Word) :
    acknowledge s v = { s with
      done := if v.getLsbD 1 = true then false else s.done
      ign := if v.getLsbD 2 = true then false else s.ign } := by
  unfold acknowledge
  cases v.getLsbD 1 <;> cases v.getLsbD 2 <;> simp

/-! ### The statements -/

/-- Settles O12: the step is `acknowledge` on the state whose turn and statement are taken. -/
theorem statusWriteClearsDoneAndIgn : Obligations.StatusWriteClearsDoneAndIgn := by
  unfold Obligations.StatusWriteClearsDoneAndIgn
  intro s v h
  rw [step_writeTo h]
  simp only [writeReg, acknowledge_eq]
  rfl

/-- Settles O15: a write is ignored because nothing, or a register that ignores writes, stands at its offset; a read finds
nothing at a reserved offset. -/
theorem reservedAndReadOnlyRegistersIgnoreWrites : Obligations.ReservedAndReadOnlyRegistersIgnoreWrites := by
  unfold Obligations.ReservedAndReadOnlyRegistersIgnoreWrites
  intro s addr v hw ha
  have hsel : portSelect s.popTurn.popHost.platform addr .word = some (regAt (addr.extractLsb' 0 8)) :=
    portSelect_aligned hw ha
  rw [← toNat_offset]
  constructor
  · intro hoff h
    rw [step_wr h]
    simp only [portWrite, hsel, regWrite_ignored hoff]
    rfl
  · intro hoff h
    rw [step_rd h]
    simp only [portRead, hsel, regAt_reserved hoff, regRead_eq]
    exact ⟨_, rfl⟩

end Sys2Proof.Machine
end

section
/-! PROOFS. The command words the decoder takes, and the engine's step at any other (30_encoding.md R84). -/

namespace Sys2Proof

/-! ### The decoder -/

/-- An OP value is one of R83's when its number is one of theirs. -/
theorem mem_opcodes_iff (op : Byte) : op ∈ Cmd32.opcodes ↔ op.toNat ∈ Cmd32.opcodes.map BitVec.toNat :=
  (List.mem_map_of_injective fun _ _ => BitVec.eq_of_toNat_eq).symm

/-- An OP value stands for a command exactly when it is one of R83's. -/
theorem decodeOp_isSome (op imm8 : Byte) : (decodeOp op imm8).isSome = true ↔ op ∈ Cmd32.opcodes := by
  rw [mem_opcodes_iff]
  unfold decodeOp
  split <;> simp_all [Cmd32.opcodes]

/-- CRC_BYTE is the command of OP 0x02 alone (R83). -/
theorem op_eq_of_decodeOp_crcByte {op imm8 b : Byte} (h : decodeOp op imm8 = some (.crcByte b)) : op = 0x02 := by
  unfold decodeOp at h
  split at h
  case h_3 hop => exact BitVec.eq_of_toNat_eq hop
  all_goals cases h

theorem decodeFields_of_rsvd_ne {c : Cmd32} (hr : c.rsvd ≠ 0) : decodeFields c = none := if_pos hr

/-- IMM8 of CRC_BYTE is its operand, whatever it holds (R82). -/
theorem decodeFields_crcByte (imm8 : Byte) : decodeFields ⟨0, imm8, 0x02⟩ = some (.crcByte imm8) := rfl

/-- For every other OP, IMM8 is checked against zero (R84). -/
theorem decodeFields_of_op_ne {c : Cmd32} (hr : c.rsvd = 0) (hop : c.op ≠ 0x02) :
    decodeFields c = if c.imm8 = 0 then decodeOp c.op c.imm8 else none := by
  unfold decodeFields
  rw [if_neg (not_not_intro hr)]
  split
  · next b hd => exact absurd (op_eq_of_decodeOp_crcByte hd) hop
  · next i _ hd => rw [hd]
  · next hd => rw [hd, ite_self]

/-- The fields decode exactly when they are legal (R84). -/
theorem decodeFields_isSome (c : Cmd32) : (decodeFields c).isSome = true ↔
    c.rsvd = 0 ∧ c.op ∈ Cmd32.opcodes ∧ (c.op = 0x02 ∨ c.imm8 = 0) := by
  by_cases hr : c.rsvd = 0
  · by_cases hop : c.op = 0x02
    · obtain ⟨rsvd, imm8, op⟩ := c
      obtain rfl : rsvd = 0 := hr
      obtain rfl : op = 0x02 := hop
      rw [decodeFields_crcByte]
      exact iff_of_true rfl ⟨rfl, (by decide : (0x02 : Byte) ∈ Cmd32.opcodes), .inl rfl⟩
    · rw [decodeFields_of_op_ne hr hop]
      by_cases hi : c.imm8 = 0
      · rw [if_pos hi, decodeOp_isSome]
        exact ⟨fun h => ⟨hr, h, .inr hi⟩, fun ⟨_, h, _⟩ => h⟩
      · rw [if_neg hi]
        exact iff_of_false Bool.false_ne_true fun ⟨_, _, h⟩ => h.elim hop hi
  · rw [decodeFields_of_rsvd_ne hr]
    exact iff_of_false Bool.false_ne_true fun ⟨h, _⟩ => hr h

end Sys2Proof

namespace Sys2Proof.Machine

/-! ### A word that is no command -/

/-- An error that is not an execution error leaves memory and the count of draws (R213). -/
theorem raiseError_of_not_isExecution {c : ErrCode} (h : c.isExecution = false) (s : State) (info : Word) :
    raiseError s c info =
      { s with outLen := 0, errcode := c, errAddr := info, done := true, eng := .idle } := by
  unfold raiseError
  rw [h]
  rfl

/-- A BUSY engine whose CUR is no command completes with ILLEGAL_CMD (R84, R203). -/
theorem engineTurn_illegal {s : State} (he : s.eng = .busy) (hd : decode s.cur = none) :
    engineTurn s = .next (raiseError s .illegalCmd 0) := by
  simp only [engineTurn, he, hd, execIllegal, complete_err]

/-! ### The statement -/

/-- Settles O1: R83's map and the two field checks for the decoder; for the step, ILLEGAL_CMD is no execution error, so
its completion spoils no byte. -/
theorem legalWordsAreTheDecodedOnes : Obligations.LegalWordsAreTheDecodedOnes := by
  unfold Obligations.LegalWordsAreTheDecodedOnes
  constructor
  · intro w
    exact decodeFields_isSome (Cmd32.ofWord w)
  · intro s hn he hd
    rw [step_engine hn, engineTurn_illegal (s := s.popTurn) he hd, raiseError_of_not_isExecution rfl]
    rfl

end Sys2Proof.Machine
end

section
/-! PROOFS. The CRC-32 generator's folds, and the commands CRC_INIT and CRC_BYTE with their words (40_crc.md R102, R104,
R105). -/

namespace Sys2Proof

/-! ### Command words by their fields -/

/-- A word laid out from fields has these fields (R80). -/
@[simp] theorem Cmd32.ofWord_toWord (c : Cmd32) : Cmd32.ofWord c.toWord = c := by
  have hrsvd : c.toWord.extractLsb' 16 16 = c.rsvd :=
    (BitVec.extractLsb'_append_eq_of_le (by decide)).trans BitVec.extractLsb'_append_eq_left
  have himm8 : c.toWord.extractLsb' 8 8 = c.imm8 :=
    (BitVec.extractLsb'_append_eq_of_le (by decide)).trans BitVec.extractLsb'_append_eq_right
  have hop : c.toWord.extractLsb' 0 8 = c.op := BitVec.extractLsb'_append_eq_right
  rw [Cmd32.ofWord, hrsvd, himm8, hop]

/-- A word is laid out from its own fields (R80). -/
@[simp] theorem Cmd32.toWord_ofWord (w : Word) : (Cmd32.ofWord w).toWord = w := by
  have hupper : w.extractLsb' 16 16 ++ w.extractLsb' 8 8 = w.extractLsb' 8 24 :=
    BitVec.extractLsb'_append_extractLsb'_eq_extractLsb' rfl
  calc w.extractLsb' 16 16 ++ w.extractLsb' 8 8 ++ w.extractLsb' 0 8
      = w.extractLsb' 8 24 ++ w.extractLsb' 0 8 := congrArg (· ++ w.extractLsb' 0 8) hupper
    _ = w.extractLsb' 0 32 := BitVec.extractLsb'_append_extractLsb'_eq_extractLsb' rfl
    _ = w := BitVec.extractLsb'_eq_self

/-- The word of legal CRC_BYTE fields decodes to CRC_BYTE, whatever IMM8 holds (R82, R105). -/
theorem decode_crcByte (b : Byte) : decode (Cmd32.toWord ⟨0, b, 0x02⟩) = some (.crcByte b) := by
  rw [decode, Cmd32.ofWord_toWord, decodeFields_crcByte]

/-- An OP other than CRC_BYTE's has at most one legal word: the one whose RSVD and IMM8 are zero (R84). -/
theorem decode_eq_none_of_ne_toWord {op : Byte} (hop : op ≠ 0x02) {w : Word} (hw : w.extractLsb' 0 8 = op)
    (hne : w ≠ Cmd32.toWord ⟨0, 0, op⟩) : decode w = none := by
  by_contra h
  obtain ⟨hr, -, hi⟩ := (decodeFields_isSome _).1 (Option.isSome_iff_ne_none.2 h)
  have hi : (Cmd32.ofWord w).imm8 = 0 := hi.resolve_left fun h2 => hop (hw.symm.trans h2)
  have hfields : Cmd32.ofWord w = ⟨0, 0, op⟩ := by
    rw [← hr, ← hi, ← hw]
    rfl
  exact hne (by rw [← hfields, Cmd32.toWord_ofWord])

end Sys2Proof

namespace Sys2Proof.Machine

/-! ### The folds -/

@[simp] theorem crcRaw_nil (c : Word) : crcRaw c [] = c := rfl

@[simp] theorem crcRaw_cons (c : Word) (b : Byte) (bs : Bytes) : crcRaw c (b :: bs) = crcRaw (crcStep c b) bs := rfl

/-- Folding one sequence after another folds their concatenation (R102). -/
theorem crcRaw_append (c : Word) (a b : Bytes) : crcRaw c (a ++ b) = crcRaw (crcRaw c a) b := by
  induction a generalizing c with
  | nil => rfl
  | cons x a ih => simp only [List.cons_append, crcRaw_cons, ih]

@[simp] theorem crc32_nil : crc32 [] = 0 := BitVec.xor_self

/-! ### Completion without output -/

/-- A command without output leaves memory (R212). -/
theorem completeOk_nil (s : State) :
    completeOk s [] = { s with outLen := 0, errcode := .none, errAddr := 0, done := true, eng := .idle } := rfl

theorem exec_crcInit (s : State) : exec .crcInit s = .next (completeOk { s with crcState := crcOnes } []) :=
  exec_eq .crcInit s

theorem exec_crcByte (b : Byte) (s : State) :
    exec (.crcByte b) s = .next (completeOk { s with crcState := crcStep s.crcState b } []) :=
  exec_eq (.crcByte b) s

/-- A CRC_STATE of all ones reads as the CRC of the empty sequence (R104). -/
theorem crcValue_of_crcOnes {s : State} (h : s.crcState = crcOnes) : s.crcValue = 0 := by
  rw [State.crcValue, h]
  exact BitVec.xor_self

/-! ### The statements -/

/-- Settles O28: the equations of the fold, and its concatenation law by induction on the first sequence. -/
theorem crcFoldsByteSequences : Obligations.CrcFoldsByteSequences := by
  unfold Obligations.CrcFoldsByteSequences
  exact ⟨crcRaw_nil, crcRaw_cons, fun _ => rfl, crc32_nil, fun c a b => (crcRaw_append c a b).symm⟩

/-- Settles O25: the completion writes no byte, and an OP other than CRC_BYTE's has one legal word. -/
theorem crcInitSetsTheInitialValue : Obligations.CrcInitSetsTheInitialValue := by
  unfold Obligations.CrcInitSetsTheInitialValue
  refine ⟨fun s => ?_, fun s t h => ?_, rfl, fun w hop hne => ?_⟩
  · rw [exec_crcInit, completeOk_nil]
    rfl
  · rw [exec_crcInit] at h
    cases h
    exact crcValue_of_crcOnes (completeOk_crcState _ _)
  · exact decode_eq_none_of_ne_toWord (by decide) hop hne

/-- Settles O26: CRC_BYTE takes IMM8 as it stands, and RSVD is checked before OP is looked at. -/
theorem crcByteFoldsItsByte : Obligations.CrcByteFoldsItsByte := by
  unfold Obligations.CrcByteFoldsItsByte
  refine ⟨fun s b => ?_, decode_crcByte, fun w _ hr => ?_, by decide⟩
  · rw [exec_crcByte, completeOk_nil]
  · exact decodeFields_of_rsvd_ne hr

end Sys2Proof.Machine
end

section
/-! PROOFS. Size derivation with the command SIZE, and why the latch of PMODE 0 zeroes no byte (41_scanline.md R120, R121,
R127, R130). -/

namespace Sys2Proof.Machine

/-! ### The dimension -/

/-- `size` is the smallest integer whose square reaches `ceil_div(N, 3)` (R120). -/
theorem size_le_iff {N S : Nat} : size N ≤ S ↔ (N + 2) / 3 ≤ S * S :=
  ⟨fun h => (le_sqrtCeil_sq _).trans (Nat.mul_self_le_mul_self h), sqrtCeil_le⟩

/-- The same without the division (R121). -/
theorem size_le_iff_le_mul_three {N S : Nat} : size N ≤ S ↔ N ≤ S * S * 3 := by
  rw [size_le_iff]
  omega

/-- The inputs of one dimension: too many for the next smaller square, few enough for this one (R121). -/
theorem size_eq_succ_iff {N S : Nat} : size N = S + 1 ↔ S * S * 3 < N ∧ N ≤ (S + 1) * (S + 1) * 3 := by
  rw [← size_le_iff_le_mul_three, ← not_le, ← size_le_iff_le_mul_three]
  omega

/-- The dimension of every SRC_LEN (R121). -/
theorem size_le_of_lt {N : Nat} (h : N < 2 ^ 32) : size N ≤ 37838 :=
  size_le_iff_le_mul_three.2 (by omega)

/-- The dimension of SRC_LEN fits WIDTH (R121). -/
theorem toNat_width_size (n : Word) : (BitVec.ofNat 16 (size n.toNat)).toNat = size n.toNat :=
  Nat.mod_eq_of_lt ((size_le_of_lt n.isLt).trans_lt (by decide))

/-! ### The latch of PMODE 0 -/

/-- The latch after a row in modes 0 and 1: some pixel of it has its blue offset out of bounds (R124, R125). -/
theorem rasterRow_latch {inp : Bytes} {n S i j k : Nat} {m : BitVec 2} {l : Bool} (h : m = 0 ∨ m = 1) :
    (rasterRow inp n S m i j k l).2 = (l || decide (0 < k ∧ n < 3 * (i * S + (j + k)))) := by
  induction k generalizing j l with
  | zero => simp [rasterRow]
  | succ k ih =>
    simp only [rasterRow, ih, rasterPixel_latch h, Bool.or_assoc, ← Bool.decide_or]
    congr 2
    rw [eq_iff_iff]
    omega

/-- No row sets the latch in mode 2 (R126). -/
theorem rasterRow_latch_two (inp : Bytes) (n S i j k : Nat) (l : Bool) : (rasterRow inp n S 2 i j k l).2 = l := by
  induction k generalizing j l with
  | zero => rfl
  | succ k ih => simp only [rasterRow, ih, rasterPixel_latch_two]

/-- The latch changes no byte of a pixel that lies wholly out of bounds (R127). -/
theorem rasterPixel_zero_eq_two {inp : Bytes} {n o : Nat} {l : Bool} (h : l = true → n ≤ o) :
    (rasterPixel inp n 0 o l).1 = (rasterPixel inp n 2 o false).1 := by
  cases l with
  | false => rfl
  | true =>
    have hout (c : Nat) : ¬ o + c < n := Nat.not_lt.2 ((h rfl).trans (Nat.le_add_right o c))
    simp [rasterPixel_bytes, hout]

/-- A latch set only once the input has ended changes no byte of a row (R127). -/
theorem rasterRow_zero_eq_two {inp : Bytes} {n S i j k : Nat} {l : Bool} (h : l = true → n ≤ 3 * (i * S + j)) :
    (rasterRow inp n S 0 i j k l).1 = (rasterRow inp n S 2 i j k false).1 := by
  induction k generalizing j l with
  | zero => rfl
  | succ k ih =>
    have hnext : (rasterPixel inp n 0 (3 * (i * S + j)) l).2 = true → n ≤ 3 * (i * S + (j + 1)) := by
      rw [rasterPixel_latch (.inl rfl), Bool.or_eq_true, decide_eq_true_iff]
      rintro (hl | hn)
      · exact (h hl).trans (by omega)
      · omega
    simp only [rasterRow, rasterPixel_latch_two, rasterPixel_zero_eq_two h, ih hnext]

/-- A latch set only once the input has ended changes no byte of the raster (R127). -/
theorem rasterRows_zero_eq_two {inp : Bytes} {n S i k : Nat} {l : Bool} (h : l = true → n ≤ 3 * (i * S)) :
    (rasterRows inp n S 0 i k l).1 = (rasterRows inp n S 2 i k false).1 := by
  induction k generalizing i l with
  | zero => rfl
  | succ k ih =>
    have hnext : (rasterRow inp n S 0 i 0 S l).2 = true → n ≤ 3 * ((i + 1) * S) := by
      rw [rasterRow_latch (.inl rfl), Bool.or_eq_true, decide_eq_true_iff, Nat.succ_mul i S]
      rintro (hl | ⟨-, hn⟩)
      · exact (h hl).trans (by omega)
      · omega
    simp only [rasterRows, rasterRow_latch_two, rasterRow_zero_eq_two (j := 0) h, ih hnext]

/-! ### The statements -/

/-- Settles O30: both halves are the characterisation of `size N ≤ S`. -/
theorem sizeIsTheSmallestDimension : Obligations.SizeIsTheSmallestDimension := by
  unfold Obligations.SizeIsTheSmallestDimension
  exact fun N => ⟨size_le_iff.1 le_rfl, fun S => size_le_iff.2⟩

/-- Settles O31: each boundary value lies between the capacities of two neighbouring dimensions. -/
theorem sizeHoldsTheInputAndFitsWidth : Obligations.SizeHoldsTheInputAndFitsWidth := by
  unfold Obligations.SizeHoldsTheInputAndFitsWidth
  refine ⟨fun N => ⟨size_le_iff_le_mul_three.1 le_rfl, fun S => size_le_iff_le_mul_three.2⟩,
    fun N h => size_le_of_lt (by omega), ?_, ?_, ?_, ?_, ?_⟩
  · exact size_eq_succ_iff.2 (by decide)
  · exact Nat.le_zero.1 (size_le_iff_le_mul_three.2 le_rfl)
  · exact size_eq_succ_iff.2 (by decide)
  · exact size_eq_succ_iff.2 (by decide)
  · exact size_eq_succ_iff.2 (by decide)

/-- Settles O32: the dimension fits WIDTH, the completion writes no byte, and OP 0x10 has one legal word. -/
theorem sizeWritesWidth : Obligations.SizeWritesWidth := by
  unfold Obligations.SizeWritesWidth
  refine ⟨fun s => ⟨BitVec.ofNat 16 (size s.srcLen.toNat), toNat_width_size s.srcLen, ?_⟩, rfl, fun w hop hne => ?_⟩
  · rw [exec_eq, resultOf, complete_ok, completeOk_nil]
  · exact decode_eq_none_of_ne_toWord (by decide) hop hne

/-- Settles O34: the latch is clear before the first pixel, and PMODE 0 sets it only where the input has ended. -/
theorem modesZeroAndTwoFillTheSameBytes : Obligations.ModesZeroAndTwoFillTheSameBytes := by
  unfold Obligations.ModesZeroAndTwoFillTheSameBytes
  exact fun inp N S => rasterRows_zero_eq_two nofun

end Sys2Proof.Machine
end

section
/-! PROOFS. STORED mode: its blocks inflate to their data and have a fixed length; the Adler-32 sums; and the zlib stream in
both modes (42_zlib.md R142, R146, R148). -/

namespace Sys2Proof.Machine

/-! ### Inflating stored blocks -/

/-- `inflate` takes one stored block's data, and stops behind it when the block is final (R151). -/
theorem inflateBlocks_storedBlockBytes {blk : Bytes} (h : blk.length ≤ 65535) (bitFuel fuel : Nat) (final : Bool)
    (rev rest : Bytes) :
    inflateBlocks bitFuel (fuel + 1) rev ⟨storedBlockBytes final blk ++ rest, 0⟩ =
      if final then some (blk.reverse ++ rev, ⟨rest, 0⟩)
      else inflateBlocks bitFuel fuel (blk.reverse ++ rev) ⟨rest, 0⟩ := by
  have hbody (header : Byte) : storedBlock rev ⟨header :: (le16 (BitVec.ofNat 16 blk.length) ++
      (le16 (~~~BitVec.ofNat 16 blk.length) ++ (blk ++ rest))), 3⟩ = some (blk.reverse ++ rev, ⟨rest, 0⟩) :=
    storedBlock_back rev blk rest h _ rfl
  cases final <;> simp [inflateBlocks, storedBlockBytes, BitReader.bit, BitReader.field, blockBody, hbody]

/-- Stored blocks that hold `d` inflate to `d`, last byte first, and are read to their end; one turn of fuel a block is
enough (R143, R151). -/
theorem inflateBlocks_storedBlocks {k : Nat} {d : Bytes} (hd : d.length ≤ 65535 * (k + 1)) (bitFuel spare : Nat)
    (rev : Bytes) :
    inflateBlocks bitFuel (spare + (k + 1)) rev ⟨storedBlocks (k + 1) d, 0⟩ = some (d.reverse ++ rev, ⟨[], 0⟩) := by
  induction k generalizing d rev with
  | zero =>
    calc inflateBlocks bitFuel (spare + 1) rev ⟨storedBlocks 1 d, 0⟩
        = some ((d.take 65535).reverse ++ rev, ⟨[], 0⟩) :=
          inflateBlocks_storedBlockBytes (List.length_take_le _ _) bitFuel spare true rev []
      _ = some (d.reverse ++ rev, ⟨[], 0⟩) := by rw [List.take_of_length_le hd]
  | succ k ih =>
    have hdrop : (d.drop 65535).length ≤ 65535 * (k + 1) := by
      rw [List.length_drop]
      omega
    calc inflateBlocks bitFuel (spare + (k + 1) + 1) rev ⟨storedBlocks (k + 1 + 1) d, 0⟩
        = inflateBlocks bitFuel (spare + (k + 1)) ((d.take 65535).reverse ++ rev)
            ⟨storedBlocks (k + 1) (d.drop 65535), 0⟩ :=
          inflateBlocks_storedBlockBytes (List.length_take_le _ _) bitFuel _ false rev _
      _ = some ((d.drop 65535).reverse ++ ((d.take 65535).reverse ++ rev), ⟨[], 0⟩) := ih hdrop _
      _ = some (d.reverse ++ rev, ⟨[], 0⟩) := by
          rw [← List.append_assoc, ← List.reverse_append, List.take_append_drop]

/-! ### `deflate_stored` -/

/-- As many full blocks as `deflate_stored` makes hold its input (R143). -/
theorem length_le_mul_max_ceilDiv (n : Nat) : n ≤ 65535 * max 1 (ceilDiv n 65535) := by
  unfold ceilDiv
  omega

/-- The length of a STORED body (R146). -/
theorem length_deflateStored (d : Bytes) :
    (deflateStored d).length = 5 * max 1 (ceilDiv d.length 65535) + d.length :=
  length_storedBlocks (length_le_mul_max_ceilDiv d.length)

/-- A STORED body inflates to its input (R148). -/
theorem inflate_deflateStored (d : Bytes) : inflate (deflateStored d) = some d := by
  obtain ⟨k, hk⟩ := Nat.exists_eq_add_one_of_ne_zero (n := max 1 (ceilDiv d.length 65535)) (by omega)
  have hlength : d.length ≤ 65535 * (k + 1) := hk ▸ length_le_mul_max_ceilDiv d.length
  obtain ⟨spare, hfuel⟩ : ∃ spare, 8 * (deflateStored d).length + 1 = spare + (k + 1) :=
    Nat.exists_eq_add_of_le' (by rw [length_deflateStored]; omega)
  rw [inflate, hfuel, deflateStored, hk, inflateBlocks_storedBlocks hlength]
  simp

/-! ### The stream -/

/-- STORED mode always makes a stream (R145). -/
theorem zlib_stored (d : Bytes) : zlib d 1 = some ([0x78, 0x01] ++ deflateStored d ++ be32 (adler32 d)) := if_pos rfl

/-- DEFAULT mode makes a stream when the compressor gives a body (R145). -/
theorem zlib_default {z : BitVec 2} (hz : z ≠ 1) (d : Bytes) :
    zlib d z = (deflateDefault d).map fun body => [0x78, 0x9C] ++ body ++ be32 (adler32 d) := by
  rw [zlib, if_neg hz]
  cases deflateDefault d <;> rfl

/-- What a stream is made of, in both modes (R145, R148). -/
theorem zlib_eq_some {d out : Bytes} {z : BitVec 2} (h : zlib d z = some out) :
    ∃ body : Bytes, out = [0x78, if z = 1 then 0x01 else 0x9C] ++ body ++ be32 (adler32 d) ∧ inflate body = some d := by
  by_cases hz : z = 1
  · subst hz
    rw [zlib_stored] at h
    exact ⟨deflateStored d, (Option.some.inj h).symm, inflate_deflateStored d⟩
  · rw [zlib_default hz] at h
    rw [if_neg hz]
    rcases deflateDefault_cases d with hnone | ⟨body, hsome, hinflate⟩
    · rw [hnone] at h
      cases h
    · rw [hsome] at h
      exact ⟨body, (Option.some.inj h).symm, hinflate⟩

/-! ### Adler-32 -/

/-- The two sums after the bytes `d`: one plus the bytes, and the sum of those running sums, modulo 65521 (R142). -/
theorem foldl_adlerStep (d : Bytes) :
    d.foldl adlerStep (1, 0) = ((1 + (d.map BitVec.toNat).sum) % 65521,
      ((List.range d.length).map fun k => 1 + ((d.take (k + 1)).map BitVec.toNat).sum).sum % 65521) := by
  induction d using List.reverseRecOn with
  | nil => rfl
  | append_singleton d b ih =>
    have hinit : ((List.range d.length).map fun k => 1 + (((d ++ [b]).take (k + 1)).map BitVec.toNat).sum) =
        (List.range d.length).map fun k => 1 + ((d.take (k + 1)).map BitVec.toNat).sum :=
      List.map_congr_left fun k hk => by rw [List.take_append_of_le_length (List.mem_range.1 hk)]
    have hwhole : (d ++ [b]).take (d.length + 1) = d ++ [b] := List.take_of_length_le (by simp)
    rw [List.foldl_append, ih, List.length_append, List.length_singleton, List.range_succ,
      List.map_append (l₁ := List.range _), hinit, List.map_singleton, hwhole]
    simp [adlerStep, Nat.add_assoc]

/-- Both sums fit their half of the word (R142). -/
theorem toNat_adler32 (d : Bytes) : (adler32 d).toNat =
    (((List.range d.length).map fun k => 1 + ((d.take (k + 1)).map BitVec.toNat).sum).sum % 65521) * 65536 +
      (1 + (d.map BitVec.toNat).sum) % 65521 := by
  rw [adler32, foldl_adlerStep, BitVec.toNat_ofNat, Nat.mod_eq_of_lt]
  omega

/-! ### The statements -/

/-- Settles O38: a STORED body inflates by induction on its blocks, a DEFAULT body by law L2; and a raster has its length. -/
theorem zlibBodyInflatesToTheInput : Obligations.ZlibBodyInflatesToTheInput := by
  unfold Obligations.ZlibBodyInflatesToTheInput
  refine ⟨fun d out z _ h => zlib_eq_some h, fun s S out z _ h => ?_⟩
  obtain ⟨body, hout, hinflate⟩ := zlib_eq_some h
  exact ⟨body, (filled s S).1, hout, hinflate, length_filled s S⟩

/-- Settles O39: each block adds five bytes to its data; the empty input has one block; the sums are those of the fold. -/
theorem storedStreamLength : Obligations.StoredStreamLength := by
  unfold Obligations.StoredStreamLength
  refine ⟨fun d => ⟨_, zlib_stored d, ?_⟩, by decide, toNat_adler32, by decide⟩
  simp only [List.length_append, length_deflateStored, be32, List.length_cons, List.length_nil, ceilDiv]
  omega

end Sys2Proof.Machine
end

section
/-! PROOFS. The parts of a chunk by position, the read set of the raster, what a command's success and its error leave, and
CRC_VALUE after the commands that build chunks (41_scanline.md R129; 43_chunk.md R160, R168). -/

namespace Sys2Proof.Machine

/-! ### Big-endian words and the parts of a chunk -/

@[simp] theorem length_be32 (v : Word) : (be32 v).length = 4 := rfl

/-- The big-endian bytes of a word, read as a number, are the word (R11). -/
theorem foldl_be32 (v : Word) : (be32 v).foldl (fun n b => n * 256 + b.toNat) 0 = v.toNat := by
  simp only [be32, List.foldl_cons, List.foldl_nil, BitVec.extractLsb'_toNat, Nat.shiftRight_eq_div_pow]
  omega

/-- The last four bytes of a sequence that ends in a big-endian word (R11). -/
theorem drop_length_sub_four_append_be32 (l : Bytes) (v : Word) :
    (l ++ be32 v).drop ((l ++ be32 v).length - 4) = be32 v :=
  List.drop_left' (by rw [List.length_append, length_be32, Nat.add_sub_cancel])

/-- A chunk is its length field and what follows it (R160). -/
theorem chunk_eq_append (t d : Bytes) :
    chunk t d = be32 (BitVec.ofNat 32 d.length) ++ (t ++ (d ++ be32 (crc32 (t ++ d)))) := by
  simp only [chunk, List.append_assoc]

/-- The CRC field is the last four bytes of a chunk (R160). -/
theorem drop_length_sub_four_chunk (t d : Bytes) :
    (chunk t d).drop ((chunk t d).length - 4) = be32 (crc32 (t ++ d)) :=
  drop_length_sub_four_append_be32 _ _

/-- The CRC field of the IEND chunk is the last four bytes of a file (R181). -/
theorem drop_length_sub_four_fileOf (S : Nat) (z : Bytes) :
    (fileOf S z).drop ((fileOf S z).length - 4) = be32 (crc32 (tagIEND ++ [])) := by
  simp only [fileOf, chunk, ← List.append_assoc]
  exact drop_length_sub_four_append_be32 _ _

theorem take_four_chunk (t d : Bytes) : (chunk t d).take 4 = be32 (BitVec.ofNat 32 d.length) := by
  rw [chunk_eq_append]
  exact List.take_left' (length_be32 _)

theorem drop_four_chunk (t d : Bytes) : (chunk t d).drop 4 = t ++ (d ++ be32 (crc32 (t ++ d))) := by
  rw [chunk_eq_append]
  exact List.drop_left' (length_be32 _)

theorem drop_eight_chunk {t : Bytes} (ht : t.length = 4) (d : Bytes) :
    (chunk t d).drop 8 = d ++ be32 (crc32 (t ++ d)) := by
  rw [← List.drop_drop (i := 4) (j := 4), drop_four_chunk]
  exact List.drop_left' ht

theorem drop_eight_add_chunk {t : Bytes} (ht : t.length = 4) (d : Bytes) :
    (chunk t d).drop (8 + d.length) = be32 (crc32 (t ++ d)) := by
  rw [← drop_length_sub_four_chunk, length_chunk, ht]
  congr 1
  omega

/-! ### The read set of the raster -/

section
variable {a b : Bytes} {n S : Nat} {m : BitVec 2} (h : ∀ k, k < readCount n S m → a.getD k 0 = b.getD k 0)
include h

/-- A pixel of an `S` by `S` raster depends on no byte outside the read set: in mode 1 a pixel whose blue offset is out of
bounds reads nothing (R125, R129). -/
theorem rasterPixel_congr {p : Nat} (hp : p < S * S) (l : Bool) :
    rasterPixel a n m (3 * p) l = rasterPixel b n m (3 * p) l := by
  refine Prod.ext ?_ rfl
  rw [rasterPixel_bytes, rasterPixel_bytes]
  refine List.map_congr_left fun c hc => ite_congr rfl (fun hread => h _ ?_) fun _ => rfl
  have hc : c < 3 := List.mem_range.1 hc
  simp only [Bool.and_eq_true, Bool.not_eq_true', Bool.or_eq_false_iff, Bool.and_eq_false_iff, beq_eq_false_iff_ne,
    decide_eq_true_eq, decide_eq_false_iff_not] at hread
  obtain ⟨⟨-, hblue⟩, hin⟩ := hread
  rw [readCount, Nat.mul_assoc, Nat.lt_min]
  refine ⟨?_, by omega⟩
  split
  · next hm =>
    have hwhole : ¬n ≤ 3 * p + 2 := hblue.resolve_left (not_not_intro hm)
    omega
  · exact hin

theorem rasterRow_congr {i j k : Nat} (hi : i < S) (hjk : j + k ≤ S) (l : Bool) :
    rasterRow a n S m i j k l = rasterRow b n S m i j k l := by
  induction k generalizing j l with
  | zero => rfl
  | succ k ih =>
    have hp : i * S + j < S * S :=
      calc i * S + j < i * S + S := by omega
        _ = (i + 1) * S := (Nat.succ_mul i S).symm
        _ ≤ S * S := Nat.mul_le_mul_right S hi
    simp only [rasterRow, rasterPixel_congr h hp, ih (j := j + 1) (by omega)]

theorem rasterRows_congr {i k : Nat} (hik : i + k ≤ S) (l : Bool) :
    rasterRows a n S m i k l = rasterRows b n S m i k l := by
  induction k generalizing i l with
  | zero => rfl
  | succ k ih =>
    simp only [rasterRows, rasterRow_congr h (i := i) (j := 0) (k := S) (by omega) (by omega),
      ih (i := i + 1) (by omega)]

/-- The raster depends on no input byte outside its read set (R129). -/
theorem raster_congr : raster a n S m = raster b n S m :=
  rasterRows_congr h (Nat.zero_add S).le false

end

/-- A longer read of memory starts with a shorter one. -/
theorem Memory.getD_bytes_of_le {m : Memory} {a k c n : Nat} (hk : k < c) (hcn : c ≤ n) :
    (m.bytes a c).getD k 0 = (m.bytes a n).getD k 0 := by
  rw [List.getD_eq_getElem _ _ (by rwa [Memory.length_bytes]),
    List.getD_eq_getElem _ _ (by rw [Memory.length_bytes]; exact hk.trans_le hcn), Memory.getElem_bytes,
    Memory.getElem_bytes]

/-- The read set lies in the SRC range (R129). -/
theorem readCount_le (n S : Nat) (m : BitVec 2) : readCount n S m ≤ n := by
  refine (min_le_left _ _).trans ?_
  split
  · exact Nat.mul_div_le n 3
  · exact le_rfl

/-- The raster of the bytes a command reads is that of the whole SRC range (R129). -/
theorem rasterOf_readCountFor (s : State) (S : Nat) :
    s.rasterOf S (s.mem.bytes s.srcAddr.toNat (s.readCountFor S)) = filled s S :=
  raster_congr fun _ hk => Memory.getD_bytes_of_le hk (readCount_le _ _ _)

/-! ### What a result leaves: one condition for success and one for errors -/

/-- A success ends in a state and an output that `ok` holds of, an error in a state that `err` holds of. -/
def CmdResult.Leaves (ok : State → Bytes → Prop) (err : State → Prop) : CmdResult → Prop
  | .ok u out => ok u out
  | .err u _ _ => err u

section
variable {ok : State → Bytes → Prop} {err : State → Prop} {s : State}

theorem leaves_checked {f : Needs} {body : CmdResult} (he : err s) (hbody : body.Leaves ok err) :
    (checked f s body).Leaves ok err := by
  unfold checked
  split
  · exact he
  · exact hbody

theorem leaves_withSrc {n : Nat} {body : Bytes → CmdResult} (he : err s)
    (hbody : (body (s.mem.bytes s.srcAddr.toNat n)).Leaves ok err) : (withSrc s n body).Leaves ok err := by
  rcases readSpan_cases s.platform s.mem s.srcAddr.toNat n with ⟨hgood, -⟩ | ⟨k, hk, hbad, hgood, -⟩
  · rwa [withSrc_ok hgood]
  · rw [withSrc_fault hk hbad hgood]
    exact he

theorem leaves_withZlib {d : Bytes} {body : Bytes → CmdResult} (he : err s)
    (hbody : ∀ z, zlib d s.zmode = some z → (body z).Leaves ok err) : (withZlib s d body).Leaves ok err := by
  unfold withZlib
  split
  · exact he
  · next z hz => exact hbody z hz

theorem leaves_put {out : Bytes} (he : err s) (hok : ok s out) : (put s out).Leaves ok err := by
  rcases put_cases s out with ⟨-, h⟩ | h | ⟨a, h⟩ <;> rw [h]
  · exact hok
  · exact he
  · exact he

theorem leaves_onOk {r : CmdResult} {f : State → State} (h : r.Leaves (fun u out => ok (f u) out) err) :
    (r.onOk f).Leaves ok err := by
  cases r with
  | ok u out => exact h
  | err u c info => exact h

theorem leaves_putChunk {t d : Bytes} (he : err s)
    (hok : ok { s with crcState := chunkCrcState t d } (chunk t d)) : (putChunk s t d).Leaves ok err :=
  leaves_onOk (leaves_put he hok)

/-- A completion shows by its ERRCODE which of the two conditions it comes from (R212, R213). -/
theorem exec_leaves {i : Instr} {t : State} (h : (resultOf i s).Leaves ok err) (hexec : exec i s = .next t) :
    (t.errcode ≠ .none → ∃ u c info, t = raiseError u c info ∧ err u) ∧
    (t.errcode = .none → ∃ u out, t = completeOk u out ∧ ok u out) := by
  rcases exec_cases hexec with ⟨u, out, rfl, hr, -⟩ | ⟨u, c, info, rfl, hr, -, hcode, -⟩ <;> rw [hr] at h
  · exact ⟨fun hc => absurd (completeOk_errcode u out) hc, fun _ => ⟨u, out, rfl, h⟩⟩
  · rw [raiseError_errcode]
    exact ⟨fun _ => ⟨u, c, info, rfl, h⟩, fun hc => absurd hc hcode⟩

end

/-! ### The commands that build chunks -/

/-- `out` is an output that `i` builds from `s`, and its last four bytes are CRC_VALUE of `u`, big-endian (R168). -/
def EndsInCrcValue (s : State) (i : Instr) (u : State) (out : Bytes) : Prop :=
  (∃ l, Builds s out l i) ∧ out.drop (out.length - 4) = be32 u.crcValue

/-- CRC_STATE of a chunk reads as the CRC field that ends it (R38, R168). -/
theorem crcValue_of_chunkCrcState {u : State} {t d : Bytes} (h : u.crcState = chunkCrcState t d) :
    u.crcValue = crc32 (t ++ d) := by
  rw [State.crcValue, h]
  rfl

theorem endsInCrcValue_chunk {s u : State} {i : Instr} {t d : Bytes} {l : Bool} (hb : Builds s (chunk t d) l i)
    (hu : u.crcState = chunkCrcState t d) : EndsInCrcValue s i u (chunk t d) :=
  ⟨⟨l, hb⟩, by rw [drop_length_sub_four_chunk, crcValue_of_chunkCrcState hu]⟩

/-- Each of the five commands writes CRC_STATE only after the last step that can raise, and then with the CRC of the chunk
that ends its output (R168, R213). -/
theorem resultOf_leaves_crcValue {i : Instr} (hi : i ∈ [.chunk, .ihdr, .idat, .iend, .encode]) (s : State) :
    (resultOf i s).Leaves (EndsInCrcValue s i) fun u => u.crcState = s.crcState := by
  cases i with
  | chunk =>
    refine leaves_checked rfl (leaves_withSrc rfl (leaves_putChunk rfl ?_))
    exact endsInCrcValue_chunk ⟨rfl, rfl⟩ (by dsimp only)
  | ihdr =>
    refine leaves_checked rfl (leaves_putChunk rfl ?_)
    exact endsInCrcValue_chunk ⟨rfl, rfl⟩ (by dsimp only)
  | idat =>
    refine leaves_checked rfl (leaves_withSrc rfl ?_)
    rw [rasterOf_readCountFor]
    refine leaves_withZlib rfl fun z hz => leaves_onOk (leaves_putChunk rfl ?_)
    exact endsInCrcValue_chunk ⟨⟨z, hz, rfl⟩, rfl⟩ (by dsimp only)
  | iend =>
    refine leaves_checked rfl (leaves_putChunk rfl ?_)
    exact endsInCrcValue_chunk ⟨rfl, rfl⟩ (by dsimp only)
  | encode =>
    refine leaves_checked rfl (leaves_withSrc rfl ?_)
    rw [rasterOf_readCountFor]
    refine leaves_withZlib rfl fun z hz => leaves_onOk (leaves_put rfl ?_)
    refine ⟨⟨_, ⟨z, hz, rfl⟩, rfl⟩, ?_⟩
    rw [drop_length_sub_four_fileOf, crcValue_of_chunkCrcState (t := tagIEND) (d := []) (by dsimp only)]
  | nop | crcInit | crcByte | crcBuf | size | pack | zlib | sig => simp at hi

/-! ### The statements -/

/-- Settles O44: the parts stand one behind the other, and each of the two words reads back as its number. -/
theorem chunkFrameIsLengthTagDataCrc : Obligations.ChunkFrameIsLengthTagDataCrc := by
  unfold Obligations.ChunkFrameIsLengthTagDataCrc
  intro t d ht hd
  have htag : ((chunk t d).drop 4).take 4 = t := by
    rw [drop_four_chunk]
    exact List.take_left' ht
  have hdata : ((chunk t d).drop 8).take d.length = d := by
    rw [drop_eight_chunk ht]
    exact List.take_left
  have htagData : ((chunk t d).drop 4).take (4 + d.length) = t ++ d := by
    rw [drop_four_chunk, ← List.append_assoc]
    exact List.take_left' (by rw [List.length_append, ht])
  refine ⟨?_, ?_, htag, hdata, ?_⟩
  · rw [length_chunk, ht]
  · rw [take_four_chunk, foldl_be32, BitVec.toNat_ofNat, Nat.mod_eq_of_lt hd]
  · rw [drop_eight_add_chunk ht, foldl_be32, htagData]

/-- Settles O49: a completion keeps CRC_STATE of the command's result, so that CRC_VALUE reads the same after it. -/
theorem crcValueIsTheLastChunksCrc : Obligations.CrcValueIsTheLastChunksCrc := by
  unfold Obligations.CrcValueIsTheLastChunksCrc
  intro i s t hi hexec
  obtain ⟨herr, hok⟩ := exec_leaves (resultOf_leaves_crcValue hi s) hexec
  constructor
  · intro hc
    obtain ⟨u, c, info, rfl, hu⟩ := herr hc
    rw [raiseError_crcState, hu]
  · intro hc
    obtain ⟨u, out, rfl, ⟨l, hb⟩, hcrc⟩ := hok hc
    exact ⟨out, l, hb, hcrc⟩

end Sys2Proof.Machine
end

section
/-! PROOFS. The system command NOP and its one word (45_system.md R190). -/

namespace Sys2Proof.Machine

/-! ### The command -/

/-- NOP only completes: it computes nothing and outputs no byte (R190). -/
theorem exec_nop (s : State) : exec .nop s = .next (completeOk s []) := by
  rw [exec_eq, resultOf, complete_ok]

/-! ### The statement -/

/-- Settles O24: the completion writes no byte, and an OP other than CRC_BYTE's has one legal word. -/
theorem nopOnlyCompletes : Obligations.NopOnlyCompletes := by
  unfold Obligations.NopOnlyCompletes
  refine ⟨fun s => ?_, rfl, fun w hop hne => ?_⟩
  · rw [exec_nop, completeOk_nil]
  · exact decode_eq_none_of_ne_toWord (by decide) hop hne

end Sys2Proof.Machine
end

section
/-! PROOFS. Decoding and encoding agree (30_encoding.md R80 to R85), and the step of a BUSY engine at the decoded
command (R87; 70_reset_and_hazards.md R243). -/

namespace Sys2Proof

/-! ### Decoding and encoding -/

/-- The fields of the command an OP value stands for: that OP, and IMM8 where the OP is CRC_BYTE's (R82, R83). -/
theorem fields_of_decodeOp {op imm8 : Byte} {i : Instr} (h : decodeOp op imm8 = some i) :
    i.fields = ⟨0, if op = 0x02 then imm8 else 0, op⟩ := by
  unfold decodeOp at h
  split at h
  case h_14 => cases h
  all_goals
    next hop =>
      obtain rfl := Option.some.inj h
      have hop := congrArg (BitVec.ofNat 8) hop
      rw [BitVec.ofNat_toNat, BitVec.setWidth_eq] at hop
      obtain rfl := hop
      rfl

/-- Legal fields are those of the command they decode to: no bit of them is dropped (R84). -/
theorem fields_of_decodeFields {c : Cmd32} {i : Instr} (h : decodeFields c = some i) : i.fields = c := by
  obtain ⟨hr, -, hi⟩ := (decodeFields_isSome c).1 (Option.isSome_of_eq_some h)
  obtain ⟨rsvd, imm8, op⟩ := c
  obtain rfl : rsvd = 0 := hr
  by_cases hop : op = 0x02
  · obtain rfl := hop
    obtain rfl := Option.some.inj ((decodeFields_crcByte imm8).symm.trans h)
    rfl
  · obtain rfl : imm8 = 0 := hi.resolve_left hop
    rw [decodeFields_of_op_ne rfl hop, if_pos rfl] at h
    rw [fields_of_decodeOp h, ite_self]

theorem decodeFields_fields (i : Instr) : decodeFields i.fields = some i := by
  cases i <;> rfl

/-- Decoding an encoded command gives it back. -/
theorem decode_encode (i : Instr) : decode (encode i) = some i := by
  rw [decode, encode, Cmd32.ofWord_toWord, decodeFields_fields]

/-- A legal word is the encoding of the command it decodes to. -/
theorem eq_encode_of_decode {w : Word} {i : Instr} (h : decode w = some i) : w = encode i := by
  rw [encode, fields_of_decodeFields h, Cmd32.toWord_ofWord]

/-- Settles O2: the fields of a word, laid out again, are the word, and legal fields are those of their command. -/
theorem decodeAndEncodeAgree : Obligations.DecodeAndEncodeAgree := by
  unfold Obligations.DecodeAndEncodeAgree
  exact fun i w => ⟨eq_encode_of_decode, fun h => h ▸ decode_encode i⟩

/-- Settles O3: each of the thirteen words is its command's encoding; the others fail the check of IMM8, of RSVD and of
OP. -/
theorem writtenOutWordsDecode : Obligations.WrittenOutWordsDecode := by
  unfold Obligations.WrittenOutWordsDecode
  exact ⟨decode_encode .nop, decode_encode .crcInit, decode_encode (.crcByte 0x49), decode_encode .crcBuf,
    decode_encode .size, decode_encode .pack, decode_encode .zlib, decode_encode .chunk, decode_encode .ihdr,
    decode_encode .idat, decode_encode .iend, decode_encode .sig, decode_encode .encode, rfl,
    decodeFields_of_rsvd_ne (by decide), rfl⟩

end Sys2Proof

namespace Sys2Proof.Machine

/-! ### The engine's step at a command -/

section
variable {s : State} {i : Instr} (hn : s.nextAgent = .engine) (he : s.eng = .busy) (hd : decode s.cur = some i)
include hn he hd

/-- A BUSY engine runs an admitted command (R87). -/
theorem step_of_admitted (ha : Admitted s i) : step s = exec i s.popTurn := by
  have ha : admits s.popTurn i = true := admits_iff.2 ha
  simp only [step_engine hn, engineTurn, State.popTurn_eng, State.popTurn_cur, he, hd, ha, if_true]

/-- A BUSY engine has no transition for a command that is not admitted (R243, 93 U15). -/
theorem step_of_not_admitted (ha : ¬Admitted s i) : step s = .refused .rangeInRegisterWindow := by
  have ha : ¬admits s.popTurn i = true := fun h => ha (admits_iff.1 h)
  simp only [step_engine hn, engineTurn, State.popTurn_eng, State.popTurn_cur, he, hd, eq_false ha, if_false]

end

/-- Settles O4: a range that includes an address of the register window is what `Admitted` excludes. -/
theorem engineTurnRunsTheDecodedCommand : Obligations.EngineTurnRunsTheDecodedCommand := by
  unfold Obligations.EngineTurnRunsTheDecodedCommand
  refine fun s i hn he hd => ⟨step_of_admitted hn he hd, fun f a hf hp hlo hhi hrange => ?_⟩
  refine step_of_not_admitted hn he hd fun hadm => ?_
  obtain ⟨hsrc, hdst⟩ := hadm f hf hp a hlo hhi
  exact hrange.elim hsrc hdst

end Sys2Proof.Machine
end

section
/-! PROOFS. The reset state, and what every step keeps: the invariant and the platform (10_state.md R52;
60_exceptions.md R212, R213; 70_reset_and_hazards.md R230 to R232). -/

namespace Sys2Proof.Machine

/-! ### The invariant through the parts of a step -/

/-- The invariant does not look at the platform's surroundings, and at memory only for its canonical form. -/
theorem inv_surroundings {s : State} (h : Inv s) {m : Memory} (hm : m.wf = true) (host : List HostStmt)
    (turns : List Agent) (reply : Reply) (draws : Nat) :
    Inv { s with mem := m, host := host, turns := turns, reply := reply, draws := draws } := by
  obtain ⟨-, hbusy, hout, haddr, hrst⟩ := h
  exact ⟨hm, hbusy, hout, haddr, fun hr => congrArg
    (fun u : State => { u with mem := m, host := host, turns := turns, reply := reply, draws := draws }) (hrst hr)⟩

theorem inv_popTurn {s : State} (h : Inv s) : Inv s.popTurn := inv_surroundings h h.1 _ _ _ _

theorem inv_popHost {s : State} (h : Inv s) : Inv s.popHost := inv_surroundings h h.1 _ _ _ _

theorem inv_answer {s : State} (h : Inv s) (r : Reply) : Inv (s.answer r) := inv_surroundings h h.1 _ _ _ _

/-- A BUSY engine is not held in reset (R230): the held block is IDLE. -/
theorem Inv.rst_of_busy {s : State} (h : Inv s) (he : s.eng = .busy) : s.rst = false := by
  obtain ⟨-, -, -, -, hrst⟩ := h
  refine Bool.eq_false_iff.2 fun hr => ?_
  rw [hrst hr] at he
  cases he

/-- Operand and control registers, IGN and XHST do not enter the invariant while `rst` is released. -/
theorem inv_of_same {s t : State} (h : Inv s) (hr : t.rst = false) (hm : t.mem = s.mem) (he : t.eng = s.eng)
    (hd : t.done = s.done) (hc : t.errcode = s.errcode) (ho : t.outLen = s.outLen) (ha : t.errAddr = s.errAddr) :
    Inv t := by
  obtain ⟨hmem, hbusy, hout, haddr, -⟩ := h
  rw [inv_released hr, hm, he, hd, hc, ho, ha]
  exact ⟨hmem, hbusy, hout, haddr⟩

/-- A register write keeps the invariant, IDLE or BUSY (R27, R29, R43, R86, R231). -/
theorem inv_writeReg {s : State} (h : Inv s) (hr : s.rst = false) (v : Word) (r : RegName) : Inv (writeReg s v r) := by
  cases r with
  | ctrl =>
    rw [writeReg]
    split
    · have hreset : { s.resetBlock with rst := false } = s.resetBlock := by
        rw [← hr, ← State.resetBlock_rst s]
      exact hreset ▸ inv_resetBlock false h.1
    · unfold writeCtrl
      split <;> exact inv_of_same h hr rfl rfl rfl rfl rfl rfl
  | status => exact inv_acknowledge v hr h
  | cmd =>
    rw [writeReg, writeIdle]
    split
    · exact inv_of_same h hr rfl rfl rfl rfl rfl rfl
    · exact inv_accept v hr h
  | srcAddr | srcLen | dstAddr | dstCap | width | tag =>
    rw [writeReg, writeIdle]
    split <;> exact inv_of_same h hr rfl rfl rfl rfl rfl rfl
  | id | outLen | crcValue | rlenLo | rlenHi | errAddr => exact h

/-! ### Everything a host's turn can do -/

/-- `t` is `s` but for memory, which stays canonical, and the model's own fields. -/
def SameBlock (s t : State) : Prop :=
  (s.mem.wf = true → t.mem.wf = true) ∧
  t = { s with mem := t.mem, host := t.host, turns := t.turns, reply := t.reply, draws := t.draws }

theorem sameBlock_portRead (s : State) (a : Word) (z : AccessSize) : SameBlock s (portRead s a z) := by
  obtain ⟨r, d, h⟩ := portRead_keeps s a z
  rw [h]
  exact ⟨id, rfl⟩

theorem sameBlock_hostLoad (s : State) (a : Word) : SameBlock s (hostLoad s a) := by
  unfold hostLoad
  split
  · exact ⟨id, rfl⟩
  · split <;> exact ⟨id, rfl⟩

theorem sameBlock_hostWait (s : State) : SameBlock s (hostWait s) := by
  obtain ⟨hm, h⟩ := sameBlock_portRead s (s.platform.regAddr .status) .word
  unfold hostWait
  dsimp only
  split
  · exact ⟨hm, congrArg State.popHost h⟩
  · exact ⟨hm, h⟩

theorem sameBlock_hostStore {s t : State} {a : Word} {bs : Bytes} (h : hostStore s a bs = .next t) : SameBlock s t := by
  unfold hostStore at h
  split at h
  · cases h
  · next hend =>
    split at h
    · cases h
    · cases h
      exact ⟨(storeBytes_spec (not_lt.1 hend)).1, rfl⟩

/-- What a register-port write can do: it is answered and changes nothing, or, while `rst` is released, it is a
register's write (R42, R230). -/
theorem portWrite_cases (s : State) (a : Word) (z : AccessSize) (v : Word) :
    (∃ r, portWrite s a z v = s.answer r) ∨
      (s.rst = false ∧ ∃ r, portWrite s a z v = (writeReg s v r).answer .ack) := by
  unfold portWrite
  cases portSelect s.platform a z with
  | none => exact .inl ⟨_, rfl⟩
  | some r =>
    cases r with
    | none => exact .inl ⟨_, rfl⟩
    | some r =>
      cases hr : s.rst with
      | true => exact .inl ⟨.ack, by simp [regWrite, hr]⟩
      | false => exact .inr ⟨rfl, r, by simp [regWrite, hr]⟩

/-- Everything a host's turn can do: leave the block as it is, write a register, or drive the reset input. -/
theorem hostTurn_cases {s t : State} (h : hostTurn s = .next t) :
    SameBlock s t ∨ (s.rst = false ∧ ∃ v r, t = (writeReg s.popHost v r).answer .ack) ∨
      ∃ level, t = (s.popHost.driveReset level).answer .none := by
  unfold hostTurn at h
  split at h
  · cases h
    exact .inl ⟨id, rfl⟩
  · next a z v _ _ =>
    cases h
    rcases portWrite_cases s.popHost a z v with ⟨r, hw⟩ | ⟨hr, r, hw⟩ <;> rw [hw]
    · exact .inl ⟨id, rfl⟩
    · exact .inr (.inl ⟨hr, v, r, rfl⟩)
  · cases h
    exact .inl (sameBlock_portRead s.popHost _ _)
  · exact .inl (sameBlock_hostStore (s := s.popHost) h)
  · cases h
    exact .inl (sameBlock_hostLoad s.popHost _)
  · cases h
    exact .inl (sameBlock_hostWait s)
  · next level _ _ =>
    cases h
    exact .inr (.inr ⟨level, rfl⟩)

theorem inv_hostTurn {s t : State} (hi : Inv s) (h : hostTurn s = .next t) : Inv t := by
  rcases hostTurn_cases h with ⟨hm, ht⟩ | ⟨hr, v, r, rfl⟩ | ⟨level, rfl⟩
  · rw [ht]
    exact inv_surroundings hi (hm hi.1) _ _ _ _
  · exact inv_answer (inv_writeReg (inv_popHost hi) hr v r) _
  · cases level with
    | true => exact inv_answer (inv_resetBlock (s := s.popHost) true hi.1) _
    | false =>
      obtain ⟨hmem, hbusy, hout, haddr, -⟩ := hi
      exact inv_answer ((inv_released (s := { s.popHost with rst := false }) rfl).2 ⟨hmem, hbusy, hout, haddr⟩) _

/-! ### The engine's turn -/

/-- A BUSY engine's turn is a completion: a successful one, or one with an error, ILLEGAL_CMD among them (R87, R203). -/
theorem engineTurn_completes {s t : State} (he : s.eng = .busy) (h : engineTurn s = .next t) :
    (∃ u out, t = completeOk u out ∧ Agrees s u ∧ out.length ≤ s.dstCap.toNat ∧
      (out = [] ∨ s.dstEnd ≤ addressSpace)) ∨
    ∃ u c info, t = raiseError u c info ∧ Agrees s u ∧ ErrShape c info := by
  rcases engineTurn_cases s with ⟨hidle, -⟩ | ⟨i, -, -, -, ht⟩ | ⟨i, -, -, -, ht⟩ | ⟨-, -, ht⟩
  · exact absurd (he.symm.trans hidle) (by decide)
  · rcases exec_cases (ht ▸ h) with ⟨u, out, rfl, -, hu⟩ | ⟨u, c, info, rfl, -, hu⟩
    · exact .inl ⟨u, out, rfl, hu⟩
    · exact .inr ⟨u, c, info, rfl, hu⟩
  · rw [ht] at h
    cases h
  · rw [ht] at h
    cases h
    exact .inr ⟨s, _, _, rfl, agrees_refl s, by decide, fun _ => rfl⟩

/-- An IDLE engine's turn changes nothing (R23). -/
theorem engineTurn_idle {s t : State} (he : s.eng = .idle) (h : engineTurn s = .next t) : t = s := by
  rw [engineTurn, he] at h
  cases h
  rfl

/-- An error leaves memory canonical (R213). -/
theorem wf_raiseError {s : State} (h : s.mem.wf = true) (c : ErrCode) (info : Word) :
    (raiseError s c info).mem.wf = true := by
  rw [raiseError_mem]
  split
  · exact Memory.wf_havoc h (dstSpan_le s).1
  · exact h

/-- An output that fits an existing DST window leaves memory canonical (R212). -/
theorem wf_completeOk {s : State} {out : Bytes} (h : s.mem.wf = true) (hlen : out.length ≤ s.dstCap.toNat)
    (hend : out = [] ∨ s.dstEnd ≤ addressSpace) : (completeOk s out).mem.wf = true := by
  rcases hend with rfl | hend
  · exact h
  · exact Memory.wf_store h ((Nat.add_le_add_left hlen _).trans hend)

theorem inv_raiseError {s : State} (h : s.mem.wf = true) (hr : s.rst = false) {c : ErrCode} {info : Word}
    (hc : ErrShape c info) : Inv (raiseError s c info) := by
  rw [inv_released (by rw [raiseError_rst, hr])]
  refine ⟨wf_raiseError h c info, ?_, fun _ => raiseError_outLen s c info, ?_⟩
  · rw [raiseError_eng]
    exact nofun
  · rw [raiseError_errcode, raiseError_errAddr]
    exact fun h5 h8 => hc.2 (by simp [ErrCode.hasAddr, h5, h8])

theorem inv_completeOk {s : State} {out : Bytes} (hm : (completeOk s out).mem.wf = true) (hr : s.rst = false) :
    Inv (completeOk s out) :=
  (inv_released (by exact hr)).2 ⟨hm, nofun, fun hc => absurd rfl hc, fun _ _ => rfl⟩

/-- A command's register writes leave the memory, the reset input and the DST window alone. -/
theorem Agrees.same {s u : State} (h : Agrees s u) :
    u.mem = s.mem ∧ u.rst = s.rst ∧ u.platform = s.platform ∧ u.dstAddr = s.dstAddr ∧ u.dstCap = s.dstCap := by
  rw [h]
  exact ⟨rfl, rfl, rfl, rfl, rfl⟩

theorem inv_engineTurn {s t : State} (hi : Inv s) (h : engineTurn s = .next t) : Inv t := by
  cases he : s.eng with
  | idle => rwa [engineTurn_idle he h]
  | busy =>
    have hr := hi.rst_of_busy he
    rcases engineTurn_completes he h with ⟨u, out, rfl, hu, hlen, hend⟩ | ⟨u, c, info, rfl, hu, hc⟩ <;>
      obtain ⟨hmem, hrst, -, haddr, hcap⟩ := hu.same
    · refine inv_completeOk (wf_completeOk (hmem ▸ hi.1) (hcap ▸ hlen) ?_) (hrst.trans hr)
      rwa [State.dstEnd, haddr, hcap]
    · exact inv_raiseError (hmem ▸ hi.1) (hrst.trans hr) hc

/-! ### The platform -/

theorem platform_writeReg (s : State) (v : Word) (r : RegName) : (writeReg s v r).platform = s.platform := by
  cases r with
  | ctrl =>
    rw [writeReg]
    split
    · exact State.resetBlock_platform s
    · unfold writeCtrl
      split <;> rfl
  | cmd | srcAddr | srcLen | dstAddr | dstCap | width | tag =>
    rw [writeReg, writeIdle]
    split <;> rfl
  | status | id | outLen | crcValue | rlenLo | rlenHi | errAddr => rfl

theorem platform_hostTurn {s t : State} (h : hostTurn s = .next t) : t.platform = s.platform := by
  rcases hostTurn_cases h with ⟨-, ht⟩ | ⟨-, v, r, rfl⟩ | ⟨level, rfl⟩
  · rw [ht]
  · exact platform_writeReg s.popHost v r
  · cases level with
    | true => exact State.resetBlock_platform s.popHost
    | false => rfl

theorem platform_engineTurn {s t : State} (h : engineTurn s = .next t) : t.platform = s.platform := by
  cases he : s.eng with
  | idle => rw [engineTurn_idle he h]
  | busy =>
    rcases engineTurn_completes he h with ⟨u, out, rfl, hu, -⟩ | ⟨u, c, info, rfl, hu, -⟩ <;>
      obtain ⟨-, -, hplatform, -⟩ := hu.same
    · exact hplatform
    · rw [raiseError_platform, hplatform]

/-! ### The statements -/

/-- Settles O7: the step is a turn of one agent, and each agent's turn keeps the invariant. -/
theorem stepKeepsTheInvariant : Obligations.StepKeepsTheInvariant := by
  unfold Obligations.StepKeepsTheInvariant
  intro s t hi h
  cases hn : s.nextAgent with
  | engine => exact inv_engineTurn (inv_popTurn hi) (step_engine hn ▸ h)
  | host => exact inv_hostTurn (inv_popTurn hi) (step_host hn ▸ h)

/-- Settles O8: neither agent's turn writes the platform. -/
theorem stepKeepsThePlatform : Obligations.StepKeepsThePlatform := by
  unfold Obligations.StepKeepsThePlatform
  intro s t h
  cases hn : s.nextAgent with
  | engine => exact platform_engineTurn (s := s.popTurn) (step_engine hn ▸ h)
  | host => exact platform_hostTurn (s := s.popTurn) (step_host hn ▸ h)

/-- Settles O6: after reset memory lists nothing, the engine is IDLE, and no error is shown. -/
theorem resetStateMeetsTheInvariant : Obligations.ResetStateMeetsTheInvariant := by
  unfold Obligations.ResetStateMeetsTheInvariant
  exact (inv_released rfl).2 ⟨rfl, nofun, fun _ => rfl, fun _ _ => rfl⟩

/-- Settles O9: every register's IDLE value is computed from the reset fields. -/
theorem resetValuesAreThoseOfTheTable : Obligations.ResetValuesAreThoseOfTheTable := by
  unfold Obligations.ResetValuesAreThoseOfTheTable
  exact ⟨rfl, rfl, rfl, rfl, fun r => by cases r <;> rfl, rfl, rfl, rfl, rfl, rfl⟩

end Sys2Proof.Machine
end

section
/-! PROOFS. The resets, and the register port's writes, reads and error responses with IRQ (70_reset_and_hazards.md R230
to R232; 10_state.md R24 to R44; 60_exceptions.md R215). -/

namespace Sys2Proof.Machine

/-! ### Both engine states -/

theorem busyBit_of_busy {s : State} (h : s.eng = .busy) : s.busyBit = true := by rw [State.busyBit, h]; rfl

theorem busyBit_of_idle {s : State} (h : s.eng = .idle) : s.busyBit = false := by rw [State.busyBit, h]; rfl

theorem writeIdle_idle {s : State} (h : s.eng = .idle) (f : State → State) : writeIdle s f = f s := by
  rw [writeIdle, busyBit_of_idle h]
  rfl

theorem writeIdle_busy {s : State} (h : s.eng = .busy) (f : State → State) :
    writeIdle s f = { s with ign := true } := by
  rw [writeIdle, busyBit_of_busy h]
  rfl

theorem writeCtrl_idle {s : State} (h : s.eng = .idle) (v : Word) : writeCtrl s v =
    { s with irqEn := v.getLsbD 0, pmode := v.extractLsb' 1 2, zmode := v.extractLsb' 3 2 } := by
  rw [writeCtrl, busyBit_of_idle h]
  rfl

theorem writeCtrl_busy {s : State} (h : s.eng = .busy) (v : Word) :
    writeCtrl s v = { s with irqEn := v.getLsbD 0 } := by
  rw [writeCtrl, busyBit_of_busy h]
  rfl

/-- A write to CTRL sets IRQ_EN, IDLE or BUSY (R27). -/
theorem irqEn_writeCtrl (s : State) (v : Word) : (writeCtrl s v).irqEn = v.getLsbD 0 := by
  unfold writeCtrl
  split <;> rfl

/-! ### Reset -/

/-- A spoiled window changes no byte outside it (R71). -/
theorem read_spoilWindow {s : State} {a : Nat} (h : OutsideDst s a) : s.spoilWindow.mem.read a = s.mem.read a :=
  Memory.read_havoc_outside (h.imp_right (Nat.add_le_add_left (dstSpan_le s).2 _).trans)

/-- A reset leaves R52's values, memory as it was if IDLE, and every byte outside the DST window as it was if BUSY
(R231, R232). -/
theorem resetBlock_frame (s : State) : ∃ (m : Memory) (d : Nat),
    s.resetBlock = { State.reset with
      rst := s.rst, mem := m, platform := s.platform, host := s.host, turns := s.turns, reply := s.reply, draws := d } ∧
    (s.eng = .idle → m = s.mem ∧ d = s.draws) ∧
    (s.eng = .busy → ∀ a, OutsideDst s a → m.read a = s.mem.read a) := by
  unfold State.resetBlock
  cases he : s.eng with
  | idle =>
    rw [busyBit_of_idle he]
    exact ⟨s.mem, s.draws, rfl, fun _ => ⟨rfl, rfl⟩, nofun⟩
  | busy =>
    rw [busyBit_of_busy he]
    exact ⟨s.spoilWindow.mem, s.spoilWindow.draws, rfl, nofun, fun _ a => read_spoilWindow⟩

theorem step_rst {s : State} {level : Bool} (h : HostNext s (.rst level)) :
    step s = .next ((s.popTurn.popHost.driveReset level).answer .none) := by
  obtain ⟨rest, hhost, hstep⟩ := step_hostNext h
  simp only [hstep, hostTurn, State.popTurn_host, hhost]

/-- The port selects something exactly for an aligned word in the window (R42). -/
theorem portSelect_isSome (p : Platform) (addr : Word) (z : AccessSize) :
    (portSelect p addr z).isSome = true ↔ z = .word ∧ p.inWindow addr.toNat = true ∧ addr.toNat % 4 = 0 := by
  unfold portSelect
  split <;> simp_all

/-! ### The words read -/

/-- A register stands at its offset from REG_BASE (R24): REG_BASE is a multiple of 256, so nothing carries. -/
theorem regAddr_eq_add (p : Platform) (r : RegName) :
    p.regAddr r = (p.regBase ++ 0#8 : Word) + r.offset.setWidth 32 := by
  have hr : r.offset.toNat < 256 := r.offset.isLt
  have hb : p.regBase.toNat < 2 ^ 24 := p.regBase.isLt
  have hbase : (p.regBase ++ 0#8 : Word).toNat = p.regBase.toNat * 256 := by
    rw [BitVec.toNat_append, Nat.shiftLeft_eq]
    simp
  apply BitVec.eq_of_toNat_eq
  rw [toNat_regAddr, BitVec.toNat_add, hbase, BitVec.toNat_setWidth]
  omega

/-- The fields of a CTRL word (R26). -/
theorem ctrlWord_fields (s : State) : s.ctrlWord.getLsbD 0 = s.irqEn ∧ s.ctrlWord.extractLsb' 1 2 = s.pmode ∧
    s.ctrlWord.extractLsb' 3 2 = s.zmode ∧ s.ctrlWord.extractLsb' 5 27 = 0 := by
  unfold State.ctrlWord
  generalize s.zmode = z, s.pmode = p, s.irqEn = e
  revert z p e
  decide

/-- The upper fields of a STATUS word: ERRCODE, and the reserved bits (R28). -/
theorem statusOf_fields (e : BitVec 4) (x i d b : Bool) : (statusOf e x i d b).extractLsb' 8 4 = e ∧
    (statusOf e x i d b).extractLsb' 4 4 = 0 ∧ (statusOf e x i d b).extractLsb' 12 20 = 0 := by
  revert e
  cases x <;> cases i <;> cases d <;> cases b <;> decide

/-- With ERRCODE 0, a STATUS word holds nothing above its four low bits (R44). -/
theorem statusOf_zero_upper (x i d b : Bool) : (statusOf 0 x i d b).extractLsb' 4 28 = 0 := by
  cases x <;> cases i <;> cases d <;> cases b <;> rfl

/-- The raster length of a 16-bit dimension (R39). -/
theorem rlen_lt (w : BitVec 16) : (3 * w.toNat + 1) * w.toNat < 2 ^ 34 := by
  have hw : w.toNat ≤ 65535 := Nat.le_of_lt_succ w.isLt
  calc (3 * w.toNat + 1) * w.toNat ≤ (3 * 65535 + 1) * 65535 := by gcongr
    _ < 2 ^ 34 := by decide

/-- Taking the turn and the statement changes no register's value. -/
theorem regValue_popped (s : State) (r : RegName) : s.popTurn.popHost.regValue (some r) = s.regValue (some r) := by
  have hidle : s.popTurn.popHost.idleValue r = s.idleValue r := by cases r <;> rfl
  have hbusy : s.popTurn.popHost.busyValue r = s.busyValue r := by cases r <;> rfl
  simp only [State.regValue, hidle, hbusy]
  rfl

/-- An `RD` of a register answers its value and changes only the count of draws, and that only while BUSY (R44). -/
theorem step_readFrom_eq {s : State} {r : RegName} (h : HostNext s (.readFrom s.platform r)) : step s =
    .next { s.answered (.word (s.regValue (some r))) with draws := if s.busyBit then s.draws + 1 else s.draws } := by
  rw [step_readFrom h, regRead_eq, regValue_popped]
  rfl

theorem step_readFrom_idle {s : State} {r : RegName} (h : HostNext s (.readFrom s.platform r)) (he : s.eng = .idle) :
    step s = .next (s.answered (.word (s.idleValue r))) := by
  rw [step_readFrom_eq h, State.regValue, busyBit_of_idle he]
  rfl

theorem step_readFrom_busy {s : State} {r : RegName} (h : HostNext s (.readFrom s.platform r)) (he : s.eng = .busy) :
    step s = .next { s.answered (.word (s.busyValue r)) with draws := s.draws + 1 } := by
  rw [step_readFrom_eq h, State.regValue, busyBit_of_busy he]
  rfl

/-! ### A write while BUSY to a register that takes one only while IDLE -/

theorem writeReg_busy {s : State} (he : s.eng = .busy) {r : RegName}
    (hr : r ∈ [RegName.cmd, .srcAddr, .srcLen, .dstAddr, .dstCap, .width, .tag]) (v : Word) :
    writeReg s v r = { s with ign := true } := by
  simp only [List.mem_cons, List.not_mem_nil, or_false] at hr
  rcases hr with rfl | rfl | rfl | rfl | rfl | rfl | rfl <;> rw [writeReg, writeIdle_busy he]

/-- A write to CMD or to an operand register while BUSY only sets IGN (R43, R86). -/
theorem step_writeTo_busy {s : State} {r : RegName} {v : Word} (h : PortNext s (.writeTo s.platform r v))
    (he : s.eng = .busy) (hr : r ∈ [RegName.cmd, .srcAddr, .srcLen, .dstAddr, .dstCap, .width, .tag]) :
    step s = .next { s.answered .ack with ign := true } := by
  rw [step_writeTo h, writeReg_busy (by exact he) hr]
  rfl

/-! ### Completion and IRQ -/

/-- Every completion sets DONE and keeps IRQ_EN, whatever the command word (R212, R213). -/
theorem engineTurn_done {s t : State} (he : s.eng = .busy) (h : engineTurn s = .next t) :
    t.done = true ∧ t.irqEn = s.irqEn := by
  rcases engineTurn_completes he h with ⟨u, out, rfl, hu, -⟩ | ⟨u, c, info, rfl, hu, -⟩ <;> rw [hu] <;> simp

/-! ### The statements -/

/-- Settles O10: both resets are `resetBlock`; a held write only answers, and a read changes only the model's own
fields. -/
theorem hardAndSoftResetGiveTheResetValues : Obligations.HardAndSoftResetGiveTheResetValues := by
  unfold Obligations.HardAndSoftResetGiveTheResetValues
  refine ⟨fun s v r level h => ?_, fun s h => ?_, fun s addr v z hr h => ?_, fun s addr z h => ?_⟩
  · obtain ⟨m, d, hreset, hidle, hbusy⟩ := resetBlock_frame s.popTurn.popHost
    refine ⟨m, d, ?_, hidle, hbusy⟩
    rcases h with ⟨h, rfl, rfl⟩ | ⟨h, hv, rfl, rfl⟩
    · rw [step_rst h, State.driveReset_true, hreset]
      rfl
    · have hrst : s.popTurn.popHost.rst = false := h.2
      rw [step_writeTo h, writeReg, if_pos hv, hreset, hrst]
      rfl
  · rw [step_rst h]
    rfl
  · rw [step_wr h, portWrite_held (by exact hr)]
    simp only [portSelect_isSome]
    rfl
  · obtain ⟨r, d, hread⟩ := portRead_keeps s.popTurn.popHost addr z
    rw [step_rd h, hread]
    exact ⟨r, d, rfl⟩

/-- Settles O11: without SRST the write is `writeCtrl`. -/
theorem ctrlWriteSetsItsFields : Obligations.CtrlWriteSetsItsFields := by
  unfold Obligations.CtrlWriteSetsItsFields
  intro s v h hv
  have hstep : step s = .next ((writeCtrl s.popTurn.popHost v).answer .ack) := by
    rw [step_writeTo h, writeReg, hv]
    rfl
  rw [hstep]
  constructor
  · intro he
    rw [writeCtrl_idle (by exact he)]
    rfl
  · intro he
    rw [writeCtrl_busy (by exact he)]
    rfl

/-- Settles O13: a CMD write is `accept` while IDLE. -/
theorem cmdWriteIsAcceptedWhileIdle : Obligations.CmdWriteIsAcceptedWhileIdle := by
  unfold Obligations.CmdWriteIsAcceptedWhileIdle
  refine fun s w h => ⟨fun he => step_writeTo_busy h he (by decide), fun he => ?_⟩
  rw [step_writeTo h, writeReg, writeIdle_idle (by exact he)]
  rfl

/-- Settles O14: an operand write is its register's update while IDLE; while BUSY each of the six is ignored alike. -/
theorem operandWritesTakeEffectOnlyWhileIdle : Obligations.OperandWritesTakeEffectOnlyWhileIdle := by
  unfold Obligations.OperandWritesTakeEffectOnlyWhileIdle
  intro s v r h
  constructor
  · intro he
    refine ⟨?_, ?_, ?_, ?_, ?width, ?_⟩ <;> rintro rfl <;>
      rw [step_writeTo h, writeReg, writeIdle_idle (by exact he)]
    case width =>
      rw [BitVec.setWidth_eq_extractLsb' (by decide)]
      rfl
    all_goals rfl
  · exact fun he hr => step_writeTo_busy h he (List.mem_cons_of_mem _ hr)

/-- Settles O16: the bus address is REG_BASE and the offset, and the answer is the register's IDLE value. -/
theorem idleReadsGiveTheRegistersValues : Obligations.IdleReadsGiveTheRegistersValues := by
  unfold Obligations.IdleReadsGiveTheRegistersValues
  intro s r h he
  refine ⟨?_, s.idleValue r, step_readFrom_idle h he, ?_⟩
  · rw [regAddr_eq_add]
    cases r <;> rfl
  refine ⟨?_, ?ctrl, ?status, ?_, ?_, ?_, ?_, ?_, ?_, ?width, ?_, ?_, ?_⟩ <;> rintro rfl
  case ctrl => exact ctrlWord_fields s
  case status =>
    obtain ⟨hbusy, hdone, hign, hxhst⟩ := statusOf_bits s.errcode.bits s.xhst s.ign s.done s.busyBit
    obtain ⟨herr, hlow, hhigh⟩ := statusOf_fields s.errcode.bits s.xhst s.ign s.done s.busyBit
    exact ⟨hbusy.trans (busyBit_of_idle he), hdone, hign, hxhst, hlow, hhigh, herr.trans (by cases s.errcode <;> rfl)⟩
  case width => exact BitVec.toNat_setWidth_of_le (by decide)
  all_goals rfl

/-- Settles O17: the answer is the register's BUSY value. -/
theorem busyReadsGiveOnlyTheStableValues : Obligations.BusyReadsGiveOnlyTheStableValues := by
  unfold Obligations.BusyReadsGiveOnlyTheStableValues
  intro s r h he
  refine ⟨s.busyValue r, s.draws + 1, step_readFrom_busy h he, ?_, ?status, ?_, ?ctrl, ?_, ?_, ?_, ?_, ?_⟩
  · rintro (rfl | rfl | rfl) <;> rfl
  case status =>
    rintro rfl
    obtain ⟨hbusy, hdone, hign, -⟩ := statusOf_bits 0 (Config.freeBit s.draws) s.ign false true
    exact ⟨hbusy, hdone, hign, statusOf_zero_upper _ _ _ _⟩
  case ctrl =>
    rintro rfl
    exact ctrlWord_fields s
  all_goals
    rintro rfl
    rfl

/-- Settles O18: the two words are the low and the high part of a number below `2 ^ 34`. -/
theorem rlenRegistersReadTheRasterLength : Obligations.RlenRegistersReadTheRasterLength := by
  unfold Obligations.RlenRegistersReadTheRasterLength
  intro s r h he _
  have hlt := rlen_lt s.width
  refine ⟨hlt, s.idleValue r, step_readFrom_idle h he, ?_, ?_⟩
  · rintro rfl
    exact BitVec.toNat_ofNat _ _
  · rintro rfl
    rw [State.idleValue, BitVec.toNat_ofNat, State.rlen, rlen]
    omega

/-- Settles O19: the port selects nothing. -/
theorem narrowOrMisalignedAccessGetsAnErrorResponse : Obligations.NarrowOrMisalignedAccessGetsAnErrorResponse := by
  unfold Obligations.NarrowOrMisalignedAccessGetsAnErrorResponse
  intro s addr v z hz h
  have hsel : portSelect s.popTurn.popHost.platform addr z = none :=
    portSelect_none (or_left_comm.1 hz)
  rcases h with h | h
  · rw [step_wr h, portWrite, hsel]
    rfl
  · rw [step_rd h, portRead, hsel]
    rfl

/-- Settles O20: IRQ is IRQ_EN and DONE; a completion sets DONE, and each of the three writes clears one of the two. -/
theorem irqFollowsCompletionAndAcknowledgement : Obligations.IrqFollowsCompletionAndAcknowledgement := by
  unfold Obligations.IrqFollowsCompletionAndAcknowledgement
  refine ⟨fun s t hn he h => ?_, fun s t v hp hv h => ?_, fun s t w hp he h => ?_, fun s t v hp hv h => ?_⟩
  · rw [step_engine hn] at h
    obtain ⟨hdone, hirq⟩ := engineTurn_done (s := s.popTurn) he h
    rw [State.irq, hdone, hirq, Bool.and_true]
    rfl
  · rw [step_writeTo hp] at h
    cases h
    simp [State.irq, writeReg, hv]
  · rw [step_writeTo hp, writeReg, writeIdle_idle (by exact he)] at h
    cases h
    simp [State.irq]
  · rw [step_writeTo hp, writeReg] at h
    cases h
    split
    · simp [State.irq, State.reset]
    · rw [State.irq, State.answer_irqEn, irqEn_writeCtrl, hv, Bool.false_and]

end Sys2Proof.Machine
end

section
/-! PROOFS. The host's memory accesses and WAIT (20_memory.md R60, R63, R79; 30_encoding.md R88, R89). -/

namespace Sys2Proof.Machine

/-! ### Host stores and loads, end to end -/

theorem step_mem {s : State} {a : Word} {bs : Bytes} (h : HostNext s (.mem a bs)) :
    step s = hostStore s.popTurn.popHost a bs := by
  obtain ⟨rest, hhost, hstep⟩ := step_hostNext h
  simp only [hstep, hostTurn, State.popTurn_host, hhost]

theorem step_ld {s : State} {a : Word} (h : HostNext s (.ld a)) : step s = .next (hostLoad s.popTurn.popHost a) := by
  obtain ⟨rest, hhost, hstep⟩ := step_hostNext h
  simp only [hstep, hostTurn, State.popTurn_host, hhost]

theorem step_wait {s : State} (h : HostNext s .wait) : step s = .next (hostWait s.popTurn) := by
  obtain ⟨rest, hhost, hstep⟩ := step_hostNext h
  simp only [hstep, hostTurn, State.popTurn_host, hhost]

theorem hostStore_fault {s : State} {a : Word} {bs : Bytes} (h : addressSpace < a.toNat + bs.length) :
    hostStore s a bs = .fault .hostAddressPastEnd :=
  if_pos h

theorem hostStore_refused {s : State} {a : Word} {bs : Bytes} (h : a.toNat + bs.length ≤ addressSpace)
    (he : s.eng = .busy) (ht : touchesRanges s a.toNat bs.length = true) :
    hostStore s a bs = .refused .hostWriteWhileBusy := by
  rw [hostStore, if_neg (not_lt.2 h), busyBit_of_busy he, ht]
  rfl

/-- A store that keeps off the running command's ranges, or comes while IDLE, stores its bytes one by one (R88). -/
theorem hostStore_next {s : State} {a : Word} {bs : Bytes} (h : a.toNat + bs.length ≤ addressSpace)
    (hfree : s.eng = .busy → ∀ k, k < bs.length → s.inSrc (a.toNat + k) = false ∧ s.inDst (a.toNat + k) = false) :
    hostStore s a bs = .next { s with
      mem := (storeBytes s.platform s.mem .ack a.toNat bs).1
      reply := (storeBytes s.platform s.mem .ack a.toNat bs).2 } := by
  have hpass : ¬(s.busyBit && touchesRanges s a.toNat bs.length) = true := by
    rw [Bool.and_eq_true, State.busyBit, beq_iff_eq, touchesRanges_iff]
    rintro ⟨he, k, hk, hin⟩
    obtain ⟨hsrc, hdst⟩ := hfree he k hk
    rw [hsrc, hdst] at hin
    exact hin.elim nofun nofun
  rw [hostStore, if_neg (not_lt.2 h), if_neg hpass]

theorem step_mem_next {s : State} {a : Word} {bs : Bytes} (h : HostNext s (.mem a bs))
    (hend : a.toNat + bs.length ≤ addressSpace)
    (hfree : s.eng = .busy → ∀ k, k < bs.length → s.inSrc (a.toNat + k) = false ∧ s.inDst (a.toNat + k) = false) :
    step s = .next { s.answered (storeBytes s.platform s.mem .ack a.toNat bs).2 with
      mem := (storeBytes s.platform s.mem .ack a.toNat bs).1 } :=
  (step_mem h).trans (hostStore_next (s := s.popTurn.popHost) hend hfree)

/-! ### WAIT -/

/-- A read ends WAIT exactly when bit 0 of its answer, BUSY, is 0 (R89). -/
theorem endsWait_word (v : Word) : (Reply.word v).endsWait = true ↔ v.getLsbD 0 = false :=
  Iff.of_eq (Bool.not_eq_true' _)

/-- One turn of WAIT while IDLE: the STATUS word ends it (R89). -/
theorem hostWait_idle {s : State} (he : s.eng = .idle) : hostWait s = s.popHost.answer (.word s.statusWord) := by
  have hread : portRead s (s.platform.regAddr .status) .word = s.answer (.word s.statusWord) := by
    rw [portRead_regAddr, regRead_eq, State.regValue, busyBit_of_idle he]
    rfl
  have hbusy : s.statusWord.getLsbD 0 = false := (statusOf_bits _ _ _ _ _).1.trans (busyBit_of_idle he)
  rw [hostWait, hread]
  exact if_pos ((endsWait_word _).2 hbusy)

/-- One turn of WAIT while BUSY: the statement stays next (R89). -/
theorem hostWait_busy {s : State} (he : s.eng = .busy) : hostWait s =
    { s with reply := .word (s.busyStatusWord (Config.freeBit s.draws)), draws := s.draws + 1 } := by
  have hread : portRead s (s.platform.regAddr .status) .word =
      { s.answer (.word (s.busyStatusWord (Config.freeBit s.draws))) with draws := s.draws + 1 } := by
    rw [portRead_regAddr, regRead_eq, State.regValue, busyBit_of_busy he]
    rfl
  have hbusy : (s.busyStatusWord (Config.freeBit s.draws)).getLsbD 0 = true := (statusOf_bits _ _ _ _ _).1
  rw [hostWait, hread]
  exact if_neg fun hends => absurd (hbusy.symm.trans ((endsWait_word _).1 hends)) (by decide)

/-! ### The statements -/

/-- Settles O21: past the end it faults, in a busy range it is refused; every other store is the loop over its bytes. -/
theorem hostStoresAreRefusedInBusyRanges : Obligations.HostStoresAreRefusedInBusyRanges := by
  unfold Obligations.HostStoresAreRefusedInBusyRanges
  intro s a bs h
  refine ⟨fun hend => ?_, fun hend he hin => ?_, fun hend hfree hout => ?_, fun hend hfree hwin => ?_⟩
  · exact (step_mem h).trans (hostStore_fault hend)
  · exact (step_mem h).trans (hostStore_refused hend he (touchesRanges_iff.2 hin))
  · rw [step_mem_next h hend hfree, storeBytes_outside hout]
  · obtain ⟨-, hreply, hother, hstored⟩ :=
      storeBytes_spec (p := s.platform) (m := s.mem) (r := .ack) (a := a.toNat) (bs := bs) hend
    refine ⟨(storeBytes s.platform s.mem .ack a.toNat bs).1, ?_, hother, hstored⟩
    rw [step_mem_next h hend hfree, hreply, if_pos hwin]

/-- Settles O22: the three cases are those of `hostLoad`. -/
theorem hostLoadsReadMemory : Obligations.HostLoadsReadMemory := by
  unfold Obligations.HostLoadsReadMemory
  intro s a h
  rw [step_ld h, hostLoad]
  refine ⟨fun hw hread => ?_, fun hw he hd => ?_, fun hw => ?_⟩
  · have hpass : ¬(s.popTurn.popHost.busyBit && s.popTurn.popHost.inDst a.toNat) = true := by
      rw [Bool.and_eq_true]
      rintro ⟨hb, hd⟩
      rcases hread with he | hd'
      · exact absurd (hb.symm.trans (busyBit_of_idle (s := s.popTurn.popHost) he)) (by decide)
      · exact absurd (hd.symm.trans hd') (by decide)
    rw [if_neg (by simpa using hw), if_neg hpass]
    rfl
  · have hb : s.popTurn.popHost.busyBit = true := busyBit_of_busy he
    have hd : s.popTurn.popHost.inDst a.toNat = true := hd
    rw [if_neg (by simpa using hw), hb, hd]
    exact ⟨_, _, rfl⟩
  · rw [if_pos (by exact hw)]
    rfl

/-- Settles O23: one turn reads STATUS, whose bit 0 is BUSY and tells whether the statement is done. -/
theorem waitReadsStatusUntilIdle : Obligations.WaitReadsStatusUntilIdle := by
  unfold Obligations.WaitReadsStatusUntilIdle
  intro s h
  rw [step_wait h]
  constructor
  · intro he
    obtain ⟨hbusy, hdone, -⟩ := statusOf_bits s.errcode.bits s.xhst s.ign s.done s.busyBit
    refine ⟨s.statusWord, hbusy.trans (busyBit_of_idle he), hdone, ?_⟩
    rw [hostWait_idle (by exact he)]
    rfl
  · intro he
    refine ⟨s.busyStatusWord (Config.freeBit s.draws), s.draws + 1, (statusOf_bits _ _ _ _ _).1, ?_⟩
    rw [hostWait_busy (by exact he)]
    rfl

end Sys2Proof.Machine
end

section
/-! PROOFS. The functions behind the commands: the table form of the CRC, the bytes, the latch and the read set of the
raster, and the layout of the file (40_crc.md R101; 41_scanline.md R123 to R129; 44_file.md R181, R185). -/

namespace Sys2Proof.Machine

/-! ### The table form of `crc_step` -/

/-- One shift, and the polynomial where the bit shifted out is set (R101). -/
theorem crcShift_eq (c : Word) : crcShift c = (c >>> 1) ^^^ (if c.getLsbD 0 then crcPoly else 0) := by
  unfold crcShift
  split
  · rfl
  · exact BitVec.xor_zero.symm

/-- A shift of the register is linear over XOR (R101). -/
theorem crcShift_xor (x y : Word) : crcShift (x ^^^ y) = crcShift x ^^^ crcShift y := by
  have hpoly : (if (x ^^^ y).getLsbD 0 then crcPoly else 0) =
      (if x.getLsbD 0 then crcPoly else 0) ^^^ (if y.getLsbD 0 then crcPoly else 0) := by
    rw [BitVec.getLsbD_xor]
    cases x.getLsbD 0 <;> cases y.getLsbD 0 <;> rfl
  rw [crcShift_eq, crcShift_eq, crcShift_eq, hpoly, BitVec.ushiftRight_xor_distrib]
  ac_rfl

theorem crcShifts_xor (k : Nat) (x y : Word) : crcShifts k (x ^^^ y) = crcShifts k x ^^^ crcShifts k y := by
  induction k generalizing x y with
  | zero => rfl
  | succ k ih => rw [crcShifts, crcShift_xor, ih]; rfl

/-- Shifting out zero bits never meets the polynomial (R101). -/
theorem crcShifts_of_low_zero {k : Nat} {x : Word} (h : ∀ i, i < k → x.getLsbD i = false) :
    crcShifts k x = x >>> k := by
  induction k generalizing x with
  | zero => rfl
  | succ k ih =>
    have hfirst : crcShift x = x >>> 1 := by rw [crcShift, h 0 (Nat.succ_pos k)]; rfl
    rw [crcShifts, hfirst, ih fun i hi => ?_, ← BitVec.shiftRight_add, Nat.add_comm 1 k]
    rw [BitVec.getLsbD_ushiftRight]
    exact h (1 + i) (by omega)

/-- A word is its low byte and the bits above it. -/
theorem eq_low_xor_high (x : Word) : x = (x.extractLsb' 0 8).setWidth 32 ^^^ (x >>> 8 <<< 8) := by
  apply BitVec.eq_of_getLsbD_eq
  intro i hi
  by_cases h : i < 8
  · simp [h, hi]
  · simp [h, hi, Nat.add_sub_of_le (not_lt.1 h)]

/-- An entry of the table (R101). -/
theorem crcStep_zero (b : Byte) : crcStep 0 b = crcShifts 8 (b.setWidth 32) :=
  congrArg (crcShifts 8) BitVec.zero_xor

/-! ### The bytes of the raster -/

/-- The byte of the raster at input offset `o`: that of the input within the mode's bounds, else 0 (R124 to R126). -/
def rasterByte (inp : Bytes) (n : Nat) (m : BitVec 2) (o : Nat) : Byte :=
  if o < (if m = 1 then 3 * (n / 3) else n) then inp.getD o 0 else 0

/-- A mode other than 3 is 0, 1 or 2 (R26). -/
theorem legal_pmode {m : BitVec 2} (hm : m ≠ 3) : m = 0 ∨ m = 1 ∨ m = 2 := by
  revert m
  decide

/-- While the latch is set only where the input has ended, a pixel holds the bytes at its offsets (R124 to R126). -/
theorem rasterPixel_eq {inp : Bytes} {n : Nat} {m : BitVec 2} {p : Nat} {l : Bool} (hl : l = true → n ≤ 3 * p) :
    (rasterPixel inp n m (3 * p) l).1 = (List.range 3).map fun c => rasterByte inp n m (3 * p + c) := by
  rw [rasterPixel_bytes]
  refine List.map_congr_left fun c hc => ?_
  have hc : c < 3 := List.mem_range.1 hc
  refine if_congr ?_ rfl rfl
  rw [Bool.and_eq_true, Bool.not_eq_true', Bool.or_eq_false_iff, Bool.and_eq_false_iff, beq_eq_false_iff_ne,
    decide_eq_true_eq, decide_eq_false_iff_not]
  have hset : l = false ∨ n ≤ 3 * p := (Bool.dichotomy l).imp_right hl
  by_cases h1 : m = 1
  · rw [if_pos h1]
    constructor
    · rintro ⟨⟨-, hwhole⟩, -⟩
      have hwhole := hwhole.resolve_left (not_not_intro h1)
      omega
    · exact fun h => ⟨⟨hset.resolve_right (by omega), .inr (by omega)⟩, by omega⟩
  · rw [if_neg h1]
    constructor
    · exact fun ⟨_, hin⟩ => hin
    · exact fun h => ⟨⟨hset.resolve_right (by omega), .inl h1⟩, h⟩

section
variable {inp : Bytes} {n S : Nat} {m : BitVec 2} (hm : m ≠ 3)
include hm

/-- A latch set before a pixel only where the input has ended is set after it only where the input has ended (R123). -/
theorem latch_after_pixel {p : Nat} {l : Bool} (hl : l = true → n ≤ 3 * p)
    (h : (rasterPixel inp n m (3 * p) l).2 = true) : n ≤ 3 * (p + 1) := by
  rcases legal_pmode hm with rfl | rfl | rfl
  · rw [rasterPixel_latch (.inl rfl), Bool.or_eq_true, decide_eq_true_iff] at h
    exact h.elim (fun h => (hl h).trans (by omega)) fun h => by omega
  · rw [rasterPixel_latch (.inr rfl), Bool.or_eq_true, decide_eq_true_iff] at h
    exact h.elim (fun h => (hl h).trans (by omega)) fun h => by omega
  · rw [rasterPixel_latch_two] at h
    exact (hl h).trans (by omega)

/-- A row holds the bytes at its offsets, one pixel after another (R123). -/
theorem rasterRow_eq {i j k : Nat} {l : Bool} (hl : l = true → n ≤ 3 * (i * S + j)) :
    (rasterRow inp n S m i j k l).1 = (List.range (3 * k)).map fun q => rasterByte inp n m (3 * (i * S + j) + q) := by
  induction k generalizing j l with
  | zero => rfl
  | succ k ih =>
    have htail : ∀ q, 3 * (i * S + (j + 1)) + q = 3 * (i * S + j) + (3 + q) := fun q => by omega
    have hrest := ih (j := j + 1) (latch_after_pixel (inp := inp) (p := i * S + j) hm hl)
    simp only [rasterRow, rasterPixel_eq hl, hrest, htail, Nat.mul_succ, Nat.add_comm (3 * k) 3, List.range_add,
      List.map_append, List.map_map, Function.comp_def]

/-- A latch set before a row only where the input has ended is set after it only where the input has ended (R123). -/
theorem latch_after_row {i j k : Nat} {l : Bool} (hl : l = true → n ≤ 3 * (i * S + j))
    (h : (rasterRow inp n S m i j k l).2 = true) : n ≤ 3 * (i * S + (j + k)) := by
  induction k generalizing j l with
  | zero => exact hl h
  | succ k ih =>
    have hrest := ih (j := j + 1) (latch_after_pixel hm hl) h
    omega

/-- A scanline of the raster: its filter byte, and the bytes at its offsets (R123). -/
def scanline (inp : Bytes) (n S : Nat) (m : BitVec 2) (i : Nat) : Bytes :=
  0 :: (List.range (3 * S)).map fun q => rasterByte inp n m (3 * S * i + q)

/-- The raster is its scanlines, one after another (R123). -/
theorem rasterRows_eq {i k : Nat} {l : Bool} (hl : l = true → n ≤ 3 * (i * S)) :
    (rasterRows inp n S m i k l).1 = (List.range' i k).flatMap (scanline inp n S m) := by
  induction k generalizing i l with
  | zero => rfl
  | succ k ih =>
    have hoff : 3 * (i * S + 0) = 3 * S * i := by ring
    have hnext : (rasterRow inp n S m i 0 S l).2 = true → n ≤ 3 * ((i + 1) * S) := fun h => by
      rw [Nat.succ_mul i S]
      exact (latch_after_row hm (j := 0) hl h).trans (by omega)
    simp only [rasterRows, rasterRow_eq hm (j := 0) hl, ih hnext, hoff, List.range'_succ, List.flatMap_cons, scanline,
      List.cons_append]

end

/-- A byte of the `i`-th of equally long pieces. -/
theorem getD_flatMap_range' {f : Nat → Bytes} {c : Nat} (hf : ∀ i, (f i).length = c) {a k i q : Nat} (hi : i < k)
    (hq : q < c) : ((List.range' a k).flatMap f).getD (i * c + q) 0 = (f (a + i)).getD q 0 := by
  induction k generalizing a i with
  | zero => omega
  | succ k ih =>
    rw [List.range'_succ, List.flatMap_cons]
    cases i with
    | zero => rw [List.getD_append _ _ _ _ (by rw [hf]; omega), Nat.zero_mul, Nat.zero_add, Nat.add_zero]
    | succ i =>
      rw [List.getD_append_right _ _ _ _ (by rw [hf, Nat.succ_mul]; omega), hf, Nat.succ_mul,
        show i * c + c + q - c = i * c + q by omega, ih (by omega), Nat.add_right_comm, Nat.add_assoc]

theorem length_scanline (inp : Bytes) (n S : Nat) (m : BitVec 2) (i : Nat) :
    (scanline inp n S m i).length = 3 * S + 1 := by
  rw [scanline, List.length_cons, List.length_map, List.length_range]

/-- A byte of the raster of a legal mode, by its scanline (R123). -/
theorem getD_raster {inp : Bytes} {n S : Nat} {m : BitVec 2} (hm : m ≠ 3) {i q : Nat} (hi : i < S)
    (hq : q < 3 * S + 1) : (raster inp n S m).1.getD (i * (3 * S + 1) + q) 0 = (scanline inp n S m i).getD q 0 := by
  rw [raster, rasterRows_eq hm (fun h => absurd h Bool.false_ne_true),
    getD_flatMap_range' (length_scanline inp n S m) hi hq, Nat.zero_add]

/-! ### The latch after a fill -/

/-- In modes 0 and 1 some pixel has its blue offset out of bounds (R124, R125). -/
theorem rasterRows_latch {inp : Bytes} {n S i k : Nat} {m : BitVec 2} {l : Bool} (h : m = 0 ∨ m = 1) :
    (rasterRows inp n S m i k l).2 = (l || decide (0 < S ∧ 0 < k ∧ n < 3 * ((i + k) * S))) := by
  induction k generalizing i l with
  | zero => simp [rasterRows]
  | succ k ih =>
    have hend : (i + 1 + k) * S = (i + 1) * S + k * S := Nat.add_mul _ _ _
    have hk : k = 0 → k * S = 0 := fun hk => by rw [hk, Nat.zero_mul]
    simp only [rasterRows, ih, rasterRow_latch h, Bool.or_assoc, ← Bool.decide_or]
    congr 2
    rw [eq_iff_iff, show i + (k + 1) = i + 1 + k by omega, hend, Nat.succ_mul i S]
    omega

/-- No fill sets the latch in mode 2 (R126). -/
theorem rasterRows_latch_two (inp : Bytes) (n S i k : Nat) (l : Bool) : (rasterRows inp n S 2 i k l).2 = l := by
  induction k generalizing i l with
  | zero => rfl
  | succ k ih => simp only [rasterRows, ih, rasterRow_latch_two]

/-- The latch after a fill in modes 0 and 1 (R128). -/
theorem raster_latch (inp : Bytes) (n S : Nat) {m : BitVec 2} (h : m = 0 ∨ m = 1) :
    (raster inp n S m).2 = decide (0 < S ∧ n < 3 * S * S) := by
  rw [raster, rasterRows_latch h, Bool.false_or, Nat.zero_add, Nat.mul_assoc]
  exact decide_eq_decide.2 ⟨fun ⟨hs, _, hn⟩ => ⟨hs, hn⟩, fun ⟨hs, hn⟩ => ⟨hs, hs, hn⟩⟩

/-! ### The parts of a file, by position -/

/-- CRC_STATE after the IEND chunk (R103, R167). -/
theorem chunkCrcState_tagIEND : chunkCrcState tagIEND [] = 0x51BD9F7D := by
  simp [chunkCrcState, tagIEND, crcOnes, crcStep, crcShifts, crcShift, crcPoly]

/-- The IEND chunk is the same twelve bytes in every file (R167). -/
theorem chunk_tagIEND : chunk tagIEND [] =
    [0x00, 0x00, 0x00, 0x00, 0x49, 0x45, 0x4E, 0x44, 0xAE, 0x42, 0x60, 0x82] := by
  have hcrc : crcRaw crcOnes (tagIEND ++ []) = 0x51BD9F7D := chunkCrcState_tagIEND
  rw [chunk, crc32, hcrc]
  decide

/-- The file as one sequence of fields (R160, R163, R181). -/
theorem fileOf_eq_append (S : Nat) (z : Bytes) : fileOf S z =
    pngSignature ++ (be32 13 ++ (tagIHDR ++ (be32 (BitVec.ofNat 32 S) ++ (be32 (BitVec.ofNat 32 S) ++
      ([8, 2, 0, 0, 0] ++ (be32 (crc32 (tagIHDR ++ ihdrData (BitVec.ofNat 32 S))) ++
        (be32 (BitVec.ofNat 32 z.length) ++ (tagIDAT ++ (z ++ (be32 (crc32 (tagIDAT ++ z)) ++
          chunk tagIEND [])))))))))) := by
  have hlength : (ihdrData (BitVec.ofNat 32 S)).length = 13 := rfl
  simp only [fileOf, chunk_eq_append tagIHDR, chunk_eq_append tagIDAT, hlength, List.append_assoc]
  rfl

/-- The bytes of a file from the IDAT stream on (R181). -/
theorem drop_fileOf_stream (S : Nat) (z : Bytes) :
    (fileOf S z).drop 41 = z ++ (be32 (crc32 (tagIDAT ++ z)) ++ chunk tagIEND []) := by
  rw [fileOf_eq_append]
  rfl

/-- The bytes of a file behind the IDAT stream (R181). -/
theorem drop_fileOf_crc (S : Nat) (z : Bytes) :
    (fileOf S z).drop (41 + z.length) = be32 (crc32 (tagIDAT ++ z)) ++ chunk tagIEND [] := by
  rw [← List.drop_drop, drop_fileOf_stream]
  exact List.drop_left

/-- A number below 2^32 is read back from its big-endian field (R11). -/
theorem foldl_be32_ofNat {n : Nat} (h : n < 2 ^ 32) :
    (be32 (BitVec.ofNat 32 n)).foldl (fun n b => n * 256 + b.toNat) 0 = n := by
  rw [foldl_be32, BitVec.toNat_ofNat, Nat.mod_eq_of_lt h]

/-! ### The statements -/

/-- Settles O29: by linearity of the shifts, the low byte and the bits above it are shifted apart. -/
theorem crcTableFormEqualsTheShiftRegister : Obligations.CrcTableFormEqualsTheShiftRegister := by
  unfold Obligations.CrcTableFormEqualsTheShiftRegister
  intro c b
  have hhigh : (c ^^^ b.setWidth 32) >>> 8 = c >>> 8 := by
    have hb : b.setWidth 32 >>> 8 = 0#32 := by
      apply BitVec.eq_of_toNat_eq
      rw [BitVec.toNat_ushiftRight, BitVec.toNat_setWidth_of_le (by decide), Nat.shiftRight_eq_div_pow]
      exact Nat.div_eq_of_lt b.isLt
    rw [BitVec.ushiftRight_xor_distrib, hb, BitVec.xor_zero]
  have hshifts : crcShifts 8 ((c ^^^ b.setWidth 32) >>> 8 <<< 8) = (c ^^^ b.setWidth 32) >>> 8 := by
    rw [crcShifts_of_low_zero fun i hi => by simp [hi]]
    apply BitVec.eq_of_getLsbD_eq
    intro i _
    simpa using BitVec.lt_of_getLsbD
  calc crcStep c b = crcShifts 8 (((c ^^^ b.setWidth 32).extractLsb' 0 8).setWidth 32 ^^^
        ((c ^^^ b.setWidth 32) >>> 8 <<< 8)) := by rw [← eq_low_xor_high, crcStep]
    _ = crcStep 0 ((c ^^^ b.setWidth 32).extractLsb' 0 8) ^^^ (c >>> 8) := by
      rw [crcShifts_xor, hshifts, hhigh, crcStep_zero]
    _ = _ := BitVec.xor_comm _ _

/-- Settles O33: the raster is its scanlines, and a scanline is its filter byte and the bytes at its offsets. -/
theorem rasterBytesFollowTheMode : Obligations.RasterBytesFollowTheMode := by
  unfold Obligations.RasterBytesFollowTheMode
  intro inp N S m hm
  refine ⟨by rw [raster, length_rasterRows, Nat.mul_comm], fun i q hi hq => ⟨?_, ?_⟩⟩
  · exact getD_raster hm hi (Nat.succ_pos _)
  · rw [Nat.add_assoc, getD_raster hm hi (by omega), Nat.add_comm 1 q, scanline, List.getD_cons_succ,
      List.getD_eq_getElem _ _ (by simpa using hq), List.getElem_map, List.getElem_range, rasterByte]

/-- Settles O35: a latch that is clear before the first pixel. -/
theorem latchTellsWhetherTheInputEnded : Obligations.LatchTellsWhetherTheInputEnded := by
  unfold Obligations.LatchTellsWhetherTheInputEnded
  exact fun inp N S => ⟨raster_latch inp N S (.inl rfl), raster_latch inp N S (.inr rfl),
    rasterRows_latch_two inp N S 0 S false⟩

/-- Settles O36: the read set of the statement is `readCount`. -/
theorem rasterReadsOnlyItsReadSet : Obligations.RasterReadsOnlyItsReadSet := by
  unfold Obligations.RasterReadsOnlyItsReadSet
  exact fun a b N S m _ h => raster_congr h

/-- Settles O52: up to the stream every field stands at a fixed place; the stream, its CRC and the IEND chunk follow. -/
theorem fileLayoutIsFixed : Obligations.FileLayoutIsFixed := by
  unfold Obligations.FileLayoutIsFixed
  intro S z hS hz
  have htagData : ((fileOf S z).drop 37).take (4 + z.length) = tagIDAT ++ z := by
    have hdrop : (fileOf S z).drop 37 = tagIDAT ++ z ++ (be32 (crc32 (tagIDAT ++ z)) ++ chunk tagIEND []) := by
      rw [fileOf_eq_append, List.append_assoc]
      rfl
    rw [hdrop]
    exact List.take_left' (by rw [List.length_append]; rfl)
  have hiend : (fileOf S z).drop (45 + z.length) = chunk tagIEND [] := by
    rw [show 45 + z.length = 41 + z.length + 4 by omega, ← List.drop_drop, drop_fileOf_crc]
    exact List.drop_left' (length_be32 _)
  have hstream : ((fileOf S z).drop 41).take z.length = z := by
    rw [drop_fileOf_stream]
    exact List.take_left
  rw [htagData, hiend, hstream, drop_fileOf_crc, length_fileOf, fileOf_eq_append]
  refine ⟨rfl, rfl, rfl, foldl_be32_ofNat hS, foldl_be32_ofNat hS, rfl, foldl_be32_ofNat hz, rfl, rfl, foldl_be32 _, ?_,
    chunk_tagIEND⟩
  rw [List.take_left' (length_be32 _), foldl_be32]

end Sys2Proof.Machine
end

section
/-! PROOFS. What a command's result is once its prechecks pass: the commands' successes with their frames (40_crc.md
R106; 41_scanline.md R131; 42_zlib.md R147; 43_chunk.md R164 to R167; 44_file.md R183 to R186). -/

namespace Sys2Proof.Machine

/-! ### The parts of a command that succeed -/

theorem withZlib_some {s : State} {d z : Bytes} {body : Bytes → CmdResult} (h : zlib d s.zmode = some z) :
    withZlib s d body = body z := by
  rw [withZlib, h]

theorem withZlib_none {s : State} {d : Bytes} {body : Bytes → CmdResult} (h : zlib d s.zmode = none) :
    withZlib s d body = .err s .zfail 0 := by
  rw [withZlib, h]

theorem putChunk_ok {s : State} {t d : Bytes} (h : DstWritable s (chunk t d).length) :
    putChunk s t d = .ok { s with crcState := chunkCrcState t d } (chunk t d) := by
  rw [putChunk, put_ok h, onOk_ok]

theorem length_chunk_of_tag {t : Bytes} (ht : t.length = 4) (d : Bytes) : (chunk t d).length = 12 + d.length := by
  rw [length_chunk, ht]

theorem length_srcBytes (s : State) (n : Nat) : (s.srcBytes n).length = n := Memory.length_bytes

/-- WIDTH as a 32-bit big-endian field: two zero bytes before its own two (R163). -/
theorem be32_setWidth (w : BitVec 16) : be32 (w.setWidth 32) = [0, 0, w.extractLsb' 8 8, w.extractLsb' 0 8] := by
  have hw : w.toNat < 2 ^ 16 := w.isLt
  simp only [be32, List.cons.injEq, and_true]
  refine ⟨?_, ?_, ?_, ?_⟩ <;> apply BitVec.eq_of_toNat_eq
  all_goals
    simp only [BitVec.extractLsb'_toNat, BitVec.toNat_setWidth, Nat.shiftRight_eq_div_pow, BitVec.ofNat_eq_ofNat,
      BitVec.toNat_ofNat]
    omega

/-- The completion of a command that ends with an output (R212). -/
theorem exec_of_ok {i : Instr} {s u : State} {out : Bytes} (h : resultOf i s = .ok u out) :
    exec i s = .next (completeOk u out) := by
  rw [exec_eq, h, complete_ok]

/-- The completion of a command that ends with an error (R213). -/
theorem exec_of_err {i : Instr} {s u : State} {c : ErrCode} {info : Word} (h : resultOf i s = .err u c info) :
    exec i s = .next (raiseError u c info) := by
  rw [exec_eq, h, complete_err]

/-- An execution error leaves the DST window with any value, and no other byte (R213). -/
theorem raiseError_frame {c : ErrCode} (hc : c.isExecution = true) (s : State) (info : Word) :
    ∃ (m : Memory) (d : Nat), raiseError s c info = { s with
      mem := m, draws := d, outLen := 0, errcode := c, errAddr := info, done := true, eng := .idle } ∧
      ∀ a, OutsideDst s a → m.read a = s.mem.read a := by
  refine ⟨s.spoilWindow.mem, s.spoilWindow.draws, ?_, fun a => read_spoilWindow⟩
  rw [raiseError, hc]
  rfl

/-! ### Each command behind its prechecks and its reads -/

section
variable {s : State}

theorem packResult_eq (hp : PrecheckPasses packNeeds s) (hr : SrcReadable s (s.readCountFor s.width.toNat)) :
    packResult s = (put { s with latch := (filled s s.width.toNat).2 } (filled s s.width.toNat).1).onOk
      fun t => { t with xhst := (filled s s.width.toNat).2 } := by
  rw [packResult, checked_passes hp, withSrc_ok hr, rasterOf_readCountFor]

theorem zlibResult_eq (hp : PrecheckPasses zlibNeeds s) (hr : SrcReadable s s.srcLen.toNat) :
    zlibResult s = withZlib s (s.srcBytes s.srcLen.toNat) fun z => put s z := by
  rw [zlibResult, checked_passes hp, withSrc_ok hr, State.srcBytes]

theorem chunkResult_eq (hp : PrecheckPasses chunkNeeds s) (hr : SrcReadable s s.srcLen.toNat) :
    chunkResult s = putChunk s s.tagBytes (s.srcBytes s.srcLen.toNat) := by
  rw [chunkResult, checked_passes hp, withSrc_ok hr, State.srcBytes]

theorem idatResult_eq (hp : PrecheckPasses pipelineNeeds s) (hr : SrcReadable s (s.readCountFor s.width.toNat)) :
    idatResult s = withZlib { s with latch := (filled s s.width.toNat).2 } (filled s s.width.toNat).1 fun z =>
      (putChunk { s with latch := (filled s s.width.toNat).2 } tagIDAT z).onOk
        fun u => { u with xhst := (filled s s.width.toNat).2 } := by
  rw [idatResult, checked_passes hp, withSrc_ok hr, rasterOf_readCountFor]

theorem encodeResult_eq (hp : PrecheckPasses pipelineNeeds s)
    (hr : SrcReadable s (s.readCountFor (size s.srcLen.toNat))) :
    encodeResult s =
      withZlib { s with width := BitVec.ofNat 16 (size s.srcLen.toNat), latch := (filled s (size s.srcLen.toNat)).2 }
        (filled s (size s.srcLen.toNat)).1 fun z =>
        (put { s with width := BitVec.ofNat 16 (size s.srcLen.toNat), latch := (filled s (size s.srcLen.toNat)).2 }
          (fileOf (size s.srcLen.toNat) z)).onOk
          fun u => { u with crcState := chunkCrcState tagIEND [], xhst := (filled s (size s.srcLen.toNat)).2 } := by
  rw [encodeResult, checked_passes hp, withSrc_ok (by exact hr), rasterOf_readCountFor]

theorem ihdrResult_eq (hp : PrecheckPasses writeNeeds s) :
    ihdrResult s = putChunk s tagIHDR (ihdrData (s.width.setWidth 32)) :=
  checked_passes hp

theorem iendResult_eq (hp : PrecheckPasses writeNeeds s) : iendResult s = putChunk s tagIEND [] :=
  checked_passes hp

theorem sigResult_eq (hp : PrecheckPasses writeNeeds s) : sigResult s = put s pngSignature :=
  checked_passes hp

/-- The prechecks of a command that only writes ask for its window alone (R202). -/
theorem precheckPasses_writeNeeds (h : s.dstAddr.toNat + s.dstCap.toNat ≤ 2 ^ 32) : PrecheckPasses writeNeeds s :=
  ⟨nofun, nofun, nofun, fun _ => h, nofun⟩

end

/-! ### ENCODE -/

/-- The raster of dimension 0 is empty, and no pixel sets its latch (R123). -/
theorem filled_zero (s : State) : filled s 0 = ([], false) := rfl

/-- The raster of dimension 0 reads nothing (R129). -/
theorem readCountFor_zero (s : State) : s.readCountFor 0 = 0 := Nat.min_zero _

/-- V-ENC-1: the file of the empty input. -/
theorem fileOf_empty : fileOf 0 [0x78, 0x01, 0x01, 0x00, 0x00, 0xFF, 0xFF, 0x00, 0x00, 0x00, 0x01] =
    [0x89, 0x50, 0x4E, 0x47, 0x0D, 0x0A, 0x1A, 0x0A, 0x00, 0x00, 0x00, 0x0D, 0x49, 0x48, 0x44, 0x52] ++
      [0x00, 0x00, 0x00, 0x00, 0x00, 0x00, 0x00, 0x00, 0x08, 0x02, 0x00, 0x00, 0x00, 0xB4, 0xE9, 0xEB, 0x45] ++
      [0x00, 0x00, 0x00, 0x0B, 0x49, 0x44, 0x41, 0x54, 0x78, 0x01, 0x01, 0x00, 0x00, 0xFF, 0xFF, 0x00, 0x00, 0x00] ++
      [0x01, 0x89, 0xD6, 0xAE, 0x5F, 0x00, 0x00, 0x00, 0x00, 0x49, 0x45, 0x4E, 0x44, 0xAE, 0x42, 0x60, 0x82] := by
  rw [fileOf, chunk_tagIEND]
  simp [chunk, be32, crc32, pngSignature, tagIHDR, tagIDAT, ihdrData, crcOnes, crcStep, crcShifts, crcShift, crcPoly]

/-- The completion of an ENCODE whose stream is `z` (R184). -/
theorem exec_encode_of_zlib {s : State} {z : Bytes} (hp : PrecheckPasses pipelineNeeds s)
    (hr : SrcReadable s (s.readCountFor (size s.srcLen.toNat)))
    (hz : zlib (filled s (size s.srcLen.toNat)).1 s.zmode = some z)
    (hw : DstWritable s (fileOf (size s.srcLen.toNat) z).length) :
    exec .encode s = .next { s with
      width := BitVec.ofNat 16 (size s.srcLen.toNat), latch := (filled s (size s.srcLen.toNat)).2
      xhst := (filled s (size s.srcLen.toNat)).2, crcState := 0x51BD9F7D
      mem := s.mem.store s.dstAddr.toNat (fileOf (size s.srcLen.toNat) z)
      outLen := BitVec.ofNat 32 (fileOf (size s.srcLen.toNat) z).length
      errcode := .none, errAddr := 0, done := true, eng := .idle } := by
  have hres := encodeResult_eq hp hr
  rw [withZlib_some (by exact hz), put_ok (by exact hw), onOk_ok, chunkCrcState_tagIEND] at hres
  rw [exec_of_ok (i := .encode) hres, completeOk]

/-! ### The statements -/

/-- Settles O27: the fold of the bytes read, up to the first bus error. -/
theorem crcBufFoldsTheSrcRange : Obligations.CrcBufFoldsTheSrcRange := by
  unfold Obligations.CrcBufFoldsTheSrcRange
  intro s hend
  have hp : PrecheckPasses crcBufNeeds s := ⟨nofun, nofun, fun _ => hend, nofun, fun _ => nofun⟩
  constructor
  · intro hr
    have hres : resultOf .crcBuf s =
        .ok { s with crcState := crcRaw s.crcState (s.srcBytes s.srcLen.toNat) } [] := by
      rw [resultOf, crcBufResult, checked_passes hp, readSpan_ok hr, State.srcBytes]
    rw [exec_of_ok hres, completeOk_nil]
  · intro k hk hbad hr
    have hres : resultOf .crcBuf s = .err { s with crcState := crcRaw s.crcState (s.srcBytes k) } .busRd
        (BitVec.ofNat 32 (s.srcAddr.toNat + k)) := by
      rw [resultOf, crcBufResult, checked_passes hp, readSpan_fault hk hbad hr, State.srcBytes]
    obtain ⟨m, d, hraise, hframe⟩ := raiseError_frame (c := .busRd) rfl
      { s with crcState := crcRaw s.crcState (s.srcBytes k) } (BitVec.ofNat 32 (s.srcAddr.toNat + k))
    exact ⟨m, d, by rw [exec_of_err hres, hraise], hframe⟩

/-- Settles O37: the output is the raster, whose length is known. -/
theorem packWritesTheRaster : Obligations.PackWritesTheRaster := by
  unfold Obligations.PackWritesTheRaster
  intro s hp hr hw
  have hres := packResult_eq hp hr
  rw [put_ok (by rw [length_filled]; exact hw), onOk_ok] at hres
  rw [exec_of_ok (i := .pack) hres, completeOk, length_filled]

/-- Settles O40: the output is the stream. -/
theorem zlibWritesTheStream : Obligations.ZlibWritesTheStream := by
  unfold Obligations.ZlibWritesTheStream
  intro s out hp hr hz hw
  have hres := zlibResult_eq hp hr
  rw [withZlib_some hz, put_ok hw] at hres
  rw [exec_of_ok (i := .zlib) hres, completeOk]

/-- Settles O45: the output is the chunk of TAG's bytes and the SRC range. -/
theorem chunkWritesTheFramedSrcRange : Obligations.ChunkWritesTheFramedSrcRange := by
  unfold Obligations.ChunkWritesTheFramedSrcRange
  intro s hp hr hw
  have hlength : (chunk s.tagBytes (s.srcBytes s.srcLen.toNat)).length = 12 + s.srcLen.toNat := by
    rw [length_chunk_of_tag (t := s.tagBytes) rfl, length_srcBytes]
  have hres := chunkResult_eq hp hr
  rw [putChunk_ok (by rw [hlength]; exact hw)] at hres
  rw [exec_of_ok (i := .chunk) hres, completeOk, hlength]
  rfl

/-- Settles O46: WIDTH fits the low half of its field. -/
theorem ihdrWritesTheHeaderChunk : Obligations.IhdrWritesTheHeaderChunk := by
  unfold Obligations.IhdrWritesTheHeaderChunk
  intro s hend hw S d
  have hd : ihdrData (s.width.setWidth 32) = d := by
    rw [ihdrData, be32_setWidth]
  have hres := ihdrResult_eq (precheckPasses_writeNeeds hend)
  rw [putChunk_ok (by exact hw), hd] at hres
  rw [exec_of_ok (i := .ihdr) hres, completeOk]
  rfl

/-- Settles O47: the output is the IDAT chunk of the stream. -/
theorem idatWritesTheCompressedRaster : Obligations.IdatWritesTheCompressedRaster := by
  unfold Obligations.IdatWritesTheCompressedRaster
  intro s z hp hr hz hw
  have hlength : (chunk tagIDAT z).length = 12 + z.length := length_chunk_of_tag rfl z
  have hres := idatResult_eq hp hr
  rw [withZlib_some (by exact hz), putChunk_ok (by rw [hlength]; exact hw), onOk_ok] at hres
  rw [exec_of_ok (i := .idat) hres, completeOk, hlength]
  simp only [chunkCrcState, crcOnes, tagIDAT]

/-- Settles O48: the output and its CRC are constants. -/
theorem iendWritesTheEndChunk : Obligations.IendWritesTheEndChunk := by
  unfold Obligations.IendWritesTheEndChunk
  intro s hend hw
  have hres := iendResult_eq (precheckPasses_writeNeeds hend)
  rw [putChunk_ok (by rw [chunk_tagIEND]; exact hw), chunk_tagIEND, chunkCrcState_tagIEND] at hres
  rw [exec_of_ok (i := .iend) hres, completeOk]
  rfl

/-- Settles O50: the output is the signature. -/
theorem sigWritesTheSignature : Obligations.SigWritesTheSignature := by
  unfold Obligations.SigWritesTheSignature
  intro s hend hw
  have hres := sigResult_eq (precheckPasses_writeNeeds hend)
  rw [put_ok (by exact hw)] at hres
  rw [exec_of_ok (i := .sig) hres, completeOk]
  rfl

/-- Settles O51: `png_file` builds the same file around the same stream. -/
theorem encodeWritesThePngFile : Obligations.EncodeWritesThePngFile := by
  unfold Obligations.EncodeWritesThePngFile
  intro s f S l hp hr hfile hw
  unfold pngFile at hfile
  dsimp only at hfile
  split at hfile
  · cases hfile
  · next z hz =>
    cases hfile
    exact ⟨rfl, exec_encode_of_zlib hp hr hz hw⟩

/-- Settles O53: the empty input has dimension 0 and one empty stored block. -/
theorem encodeOfTheEmptyInput : Obligations.EncodeOfTheEmptyInput := by
  unfold Obligations.EncodeOfTheEmptyInput
  intro s hlen hm hz hend hw
  have hn : s.srcLen.toNat = 0 := by rw [hlen]; rfl
  have hsize : size s.srcLen.toNat = 0 := by rw [hn]; exact Nat.le_zero.1 (size_le_iff_le_mul_three.2 le_rfl)
  have hp : PrecheckPasses pipelineNeeds s := by
    refine ⟨fun _ => hm, fun _ => .inr hz, fun _ => ?_, fun _ => hend, fun _ _ h => ?_⟩
    · rw [hn]
      exact s.srcAddr.isLt.le
    · rw [hn] at h
      exact absurd h.1 (lt_irrefl 0)
  have hr : SrcReadable s (s.readCountFor (size s.srcLen.toNat)) := by
    rw [hsize, readCountFor_zero]
    exact fun k hk => absurd hk (Nat.not_lt_zero k)
  have hstream : zlib (filled s (size s.srcLen.toNat)).1 s.zmode =
      some [0x78, 0x01, 0x01, 0x00, 0x00, 0xFF, 0xFF, 0x00, 0x00, 0x00, 0x01] := by
    rw [hsize, filled_zero, hz]
    decide
  have hexec := exec_encode_of_zlib hp hr hstream (by rw [length_fileOf]; exact hw)
  rw [hsize, filled_zero, fileOf_empty] at hexec
  exact hexec

end Sys2Proof.Machine
end

section
/-! PROOFS. Errors: the prechecks' order, bus errors, OVERFLOW and ZFAIL, and what a DEFAULT-mode command ends with
(60_exceptions.md R202 to R213; 42_zlib.md R144, R147). -/

namespace Sys2Proof.Machine

/-! ### The prechecks -/

/-- A command with flags runs behind `precheck` with them (R202). -/
theorem resultOf_eq_checked {i : Instr} {f : Needs} (h : needsOf i = some f) (s : State) :
    ∃ body, resultOf i s = checked f s body := by
  cases i <;> cases h <;> exact ⟨_, rfl⟩

/-- A precheck error ends the command and changes nothing else (R202, R213). -/
theorem exec_of_precheck {i : Instr} {f : Needs} {s : State} {e : ErrCode} (hf : needsOf i = some f)
    (h : precheck f s = some e) :
    exec i s = .next { s with outLen := 0, errcode := e, errAddr := 0, done := true, eng := .idle } := by
  obtain ⟨body, hbody⟩ := resultOf_eq_checked hf s
  have hcode : e.isExecution = false := by
    rcases precheck_code h with rfl | rfl | rfl <;> rfl
  rw [exec_of_err (hbody.trans (checked_fails h)), raiseError_of_not_isExecution hcode]

section
variable (f : Needs) (s : State)

/-- A mode value that the command uses is reserved (R204). -/
abbrev CfgFault : Prop := (f.pmode = true ∧ s.pmode = 3) ∨ (f.zmode = true ∧ (s.zmode = 2 ∨ s.zmode = 3))

/-- A range that the command uses ends past 2^32 (R205). -/
abbrev RangeFault : Prop :=
  (f.readsSrc = true ∧ 2 ^ 32 < s.srcAddr.toNat + s.srcLen.toNat) ∨
    (f.writesDst = true ∧ 2 ^ 32 < s.dstAddr.toNat + s.dstCap.toNat)

/-- The two ranges of the command overlap (R206). -/
abbrev OverlapFault : Prop :=
  f.readsSrc = true ∧ f.writesDst = true ∧ 0 < s.srcLen.toNat ∧ 0 < s.dstCap.toNat ∧
    s.srcAddr.toNat < s.dstAddr.toNat + s.dstCap.toNat ∧ s.dstAddr.toNat < s.srcAddr.toNat + s.srcLen.toNat

end

/-- The error `precheck` raises, in the order of R202. -/
theorem precheck_eq (f : Needs) (s : State) : precheck f s =
    if CfgFault f s then some .illegalCfg else if RangeFault f s then some .range
    else if OverlapFault f s then some .overlap else none := by
  have hz : 2 ≤ s.zmode.toNat ↔ s.zmode = 2 ∨ s.zmode = 3 := by
    generalize s.zmode = z
    revert z
    decide
  have hspace : addressSpace = 2 ^ 32 := rfl
  have hovl : s.rangesOverlap = true ↔ 0 < s.srcLen.toNat ∧ 0 < s.dstCap.toNat ∧
      s.srcAddr.toNat < s.dstAddr.toNat + s.dstCap.toNat ∧ s.dstAddr.toNat < s.srcAddr.toNat + s.srcLen.toNat :=
    decide_eq_true_iff
  simp only [precheck, Bool.and_eq_true, beq_iff_eq, decide_eq_true_eq, hz, State.srcEnd, State.dstEnd, hspace, hovl,
    OverlapFault, ite_or, and_assoc]

/-! ### Bus errors and outputs -/

theorem onOk_id (r : CmdResult) : r.onOk id = r := by
  cases r <;> rfl

theorem onOk_onOk (r : CmdResult) (f g : State → State) : (r.onOk f).onOk g = r.onOk fun u => g (f u) := by
  cases r <;> rfl

/-- No address of the 256-byte register window is outside it (R24). -/
theorem inWindow_of_mem {p : Platform} {a : Nat} (hlo : (p.regBase ++ 0#8).toNat ≤ a)
    (hhi : a < (p.regBase ++ 0#8).toNat + 256) : p.inWindow a = true := by
  have e : (p.regBase ++ 0#8).toNat = p.regBase.toNat * 256 := by
    rw [BitVec.toNat_append, Nat.shiftLeft_eq]
    simp
  rw [e] at hlo hhi
  rw [Platform.inWindow, beq_iff_eq]
  omega

/-- A bus error in the read set ends the command there, ENCODE with WIDTH written (R207, R213). -/
theorem resultOf_of_read_fault {i : Instr} {f : Needs} {s : State} {k : Nat}
    (hi : i ∈ [.pack, .zlib, .chunk, .idat, .encode]) (hf : needsOf i = some f) (hp : PrecheckPasses f s)
    (hk : k < readSetOf s i) (hbad : s.platform.rdOk (s.srcAddr.toNat + k) = false) (hr : SrcReadable s k) :
    resultOf i s = .err { s with width := widthOf s i } .busRd (BitVec.ofNat 32 (s.srcAddr.toNat + k)) := by
  cases i with
  | pack | zlib | chunk | idat | encode =>
    cases hf
    exact (checked_passes hp).trans (withSrc_fault hk hbad hr)
  | nop | crcInit | crcByte | crcBuf | size | ihdr | iend | sig => simp at hi

/-- A command that builds an output ends with `put` of it, from the state its register writes left (R209). -/
theorem resultOf_of_builds {i : Instr} {f : Needs} {s : State} {out : Bytes} {l : Bool} (hf : needsOf i = some f)
    (hb : Builds s out l i) (hp : PrecheckPasses f s) (hr : SrcReadable s (readSetOf s i)) :
    ∃ g : State → State, resultOf i s = (put { s with width := widthOf s i, latch := l } out).onOk g := by
  cases i with
  | sig =>
    cases hf
    obtain ⟨rfl, rfl⟩ := hb
    exact ⟨id, (sigResult_eq hp).trans (onOk_id _).symm⟩
  | ihdr =>
    cases hf
    obtain ⟨rfl, rfl⟩ := hb
    exact ⟨_, ihdrResult_eq hp⟩
  | iend =>
    cases hf
    obtain ⟨rfl, rfl⟩ := hb
    exact ⟨_, iendResult_eq hp⟩
  | chunk =>
    cases hf
    obtain ⟨rfl, rfl⟩ := hb
    exact ⟨_, chunkResult_eq hp hr⟩
  | zlib =>
    cases hf
    obtain ⟨hz, rfl⟩ := hb
    exact ⟨id, (zlibResult_eq hp hr).trans ((withZlib_some hz).trans (onOk_id _).symm)⟩
  | pack =>
    cases hf
    obtain ⟨rfl, rfl⟩ := hb
    exact ⟨_, packResult_eq hp hr⟩
  | idat =>
    cases hf
    obtain ⟨⟨z, hz, rfl⟩, rfl⟩ := hb
    exact ⟨_, (idatResult_eq hp hr).trans ((withZlib_some (by exact hz)).trans (onOk_onOk _ _ _))⟩
  | encode =>
    cases hf
    obtain ⟨⟨z, hz, rfl⟩, rfl⟩ := hb
    exact ⟨_, (encodeResult_eq hp hr).trans (withZlib_some (by exact hz))⟩
  | nop | crcInit | crcByte | crcBuf | size => exact hb.elim

/-- A command whose output fits and writes ends with it, having written only registers that `Agrees` names (R212). -/
theorem resultOf_of_builds_ok {i : Instr} {f : Needs} {s : State} {out : Bytes} {l : Bool} (hf : needsOf i = some f)
    (hb : Builds s out l i) (hp : PrecheckPasses f s) (hr : SrcReadable s (readSetOf s i))
    (hw : DstWritable s out.length) :
    ∃ u, resultOf i s = .ok u out ∧ Agrees s u ∧ (out = [] ∨ s.dstEnd ≤ addressSpace) := by
  obtain ⟨g, hres⟩ := resultOf_of_builds hf hb hp hr
  rw [put_ok (by exact hw), onOk_ok] at hres
  have hshape := resultOf_shape i s
  rw [hres] at hshape
  obtain ⟨hagrees, -, hend⟩ := hshape
  exact ⟨_, hres, hagrees, hend⟩

/-- An execution error of a command whose register writes left WIDTH and LATCH (R213). -/
theorem exec_of_execution_err {i : Instr} {s : State} {w : BitVec 16} {l : Bool} {c : ErrCode} {info : Word}
    (h : resultOf i s = .err { s with width := w, latch := l } c info) (hc : c.isExecution = true) :
    ∃ (m : Memory) (d : Nat), exec i s = .next { s with
      width := w, latch := l, mem := m, draws := d
      outLen := 0, errcode := c, errAddr := info, done := true, eng := .idle } ∧
      ∀ a, OutsideDst s a → m.read a = s.mem.read a := by
  obtain ⟨m, d, hraise, hframe⟩ := raiseError_frame hc { s with width := w, latch := l } info
  exact ⟨m, d, by rw [exec_of_err h, hraise], hframe⟩

/-! ### The compressor -/

/-- A command whose bytes compress to a stream builds its output from that stream (R147, R166, R184). -/
theorem builds_of_compresses {i : Instr} {s : State} {d z : Bytes} {l : Bool} (hc : compresses s i = some (d, l))
    (hz : zlib d s.zmode = some z) : ∃ out, Builds s out l i := by
  cases i with
  | zlib =>
    cases hc
    exact ⟨z, hz, rfl⟩
  | idat =>
    obtain ⟨rfl, rfl⟩ := Prod.ext_iff.1 (Option.some.inj hc)
    exact ⟨_, ⟨z, hz, rfl⟩, rfl⟩
  | encode =>
    obtain ⟨rfl, rfl⟩ := Prod.ext_iff.1 (Option.some.inj hc)
    exact ⟨_, ⟨z, hz, rfl⟩, rfl⟩
  | nop | crcInit | crcByte | crcBuf | size | pack | chunk | ihdr | iend | sig => cases hc

/-- A command whose bytes compress to nothing ends with ZFAIL, ENCODE with WIDTH written (R208, R213). -/
theorem resultOf_of_zfail {i : Instr} {f : Needs} {s : State} {d : Bytes} {l : Bool} (hf : needsOf i = some f)
    (hc : compresses s i = some (d, l)) (hp : PrecheckPasses f s) (hr : SrcReadable s (readSetOf s i))
    (hz : zlib d s.zmode = none) : resultOf i s = .err { s with width := widthOf s i, latch := l } .zfail 0 := by
  cases i with
  | zlib =>
    cases hf
    cases hc
    exact (zlibResult_eq hp hr).trans (withZlib_none hz)
  | idat =>
    cases hf
    obtain ⟨rfl, rfl⟩ := Prod.ext_iff.1 (Option.some.inj hc)
    exact (idatResult_eq hp hr).trans (withZlib_none (by exact hz))
  | encode =>
    cases hf
    obtain ⟨rfl, rfl⟩ := Prod.ext_iff.1 (Option.some.inj hc)
    exact (encodeResult_eq hp hr).trans (withZlib_none (by exact hz))
  | nop | crcInit | crcByte | crcBuf | size | pack | chunk | ihdr | iend | sig => cases hc

/-! ### The statements -/

/-- Settles O54: `precheck` decides the three faults in the order of the statement. -/
theorem precheckErrorsComeInOrder : Obligations.PrecheckErrorsComeInOrder := by
  unfold Obligations.PrecheckErrorsComeInOrder
  intro i f s e hf h
  refine exec_of_precheck hf ?_
  rw [precheck_eq]
  rcases h with ⟨hcfg, rfl⟩ | ⟨hcfg, hrng, rfl⟩ | ⟨hcfg, hrng, hovl, rfl⟩
  · exact if_pos hcfg
  · exact (if_neg hcfg).trans (if_pos hrng)
  · exact (if_neg hcfg).trans ((if_neg hrng).trans (if_pos hovl))

/-- Settles O55: the read set ends at its first bus error, and the window has one everywhere. -/
theorem busReadErrorReportsTheLowestAddress : Obligations.BusReadErrorReportsTheLowestAddress := by
  unfold Obligations.BusReadErrorReportsTheLowestAddress
  refine ⟨fun p a hlo hhi => ?_, fun i f s k hi hf hp hk hbad hr => ?_⟩
  · rw [Platform.rdOk, inWindow_of_mem hlo hhi]
    rfl
  · exact exec_of_execution_err (l := s.latch) (resultOf_of_read_fault hi hf hp hk hbad hr) rfl

/-- Settles O56: `put` asks for the length before it asks for any address. -/
theorem overflowBeforeBusWriteError : Obligations.OverflowBeforeBusWriteError := by
  unfold Obligations.OverflowBeforeBusWriteError
  refine ⟨fun p a hlo hhi => ?_, fun i f s out l hf hb hp hr => ?_⟩
  · rw [Platform.wrOk, inWindow_of_mem hlo hhi]
    rfl
  · obtain ⟨g, hres⟩ := resultOf_of_builds hf hb hp hr
    refine ⟨fun hlong => ?_, fun k hfits hk hbad hgood => ?_⟩
    · rw [put_overflow (by exact hlong), onOk_err] at hres
      exact exec_of_execution_err hres rfl
    · rw [put_busWr (by exact hfits) hk (by exact hbad) (by exact hgood), onOk_err] at hres
      exact exec_of_execution_err hres rfl

/-- Settles O41: the compressor gives nothing, or a stream whose body inflates by law L2; the window is writable, so the
output built from it is too long or written. -/
theorem defaultModeFailsOrInflates : Obligations.DefaultModeFailsOrInflates := by
  unfold Obligations.DefaultModeFailsOrInflates
  intro i f s d l hmode hf hc hp hr hw
  cases hz : zlib d 0 with
  | none =>
    exact .inl ⟨rfl, exec_of_execution_err (resultOf_of_zfail hf hc hp hr (by rw [hmode, hz])) rfl⟩
  | some z =>
    obtain ⟨body, rfl, hinflate⟩ := zlib_eq_some hz
    obtain ⟨out, hb⟩ := builds_of_compresses hc (by rw [hmode, hz])
    refine .inr ⟨body, out, complete (resultOf i s), hinflate, rfl, hb, exec_eq i s, ?_⟩
    by_cases hlong : s.dstCap.toNat < out.length
    · obtain ⟨g, hres⟩ := resultOf_of_builds hf hb hp hr
      rw [hres, put_overflow (by exact hlong), onOk_err, complete_err]
      exact ⟨raiseError_eng _ _ _, raiseError_done _ _ _,
        .inl ⟨hlong, raiseError_errcode _ _ _, raiseError_outLen _ _ _⟩⟩
    · have hfits : out.length ≤ s.dstCap.toNat := not_lt.1 hlong
      obtain ⟨u, hres, hagrees, -⟩ :=
        resultOf_of_builds_ok hf hb hp hr ⟨hfits, fun k hk => hw k (hk.trans_le hfits)⟩
      obtain ⟨hmem, -, -, haddr, -⟩ := hagrees.same
      rw [hres, complete_ok]
      exact ⟨rfl, rfl, .inr ⟨hfits, rfl, rfl, by rw [completeOk_mem, hmem, haddr]⟩⟩

end Sys2Proof.Machine
end

section
/-! PROOFS. What holds of every command: STORED mode never fails, which registers and which bytes a completion leaves,
and that every accepted word ends (10_state.md section 10; 20_memory.md R71; 60_exceptions.md R200 to R213). -/

namespace Sys2Proof.Machine

/-! ### STORED mode -/

/-- The result is not the error ZFAIL (R208). -/
def CmdResult.NoZfail : CmdResult → Prop
  | .ok _ _ => True
  | .err _ c _ => c ≠ .zfail

theorem noZfail_checked {f : Needs} {s : State} {body : CmdResult} (h : body.NoZfail) : (checked f s body).NoZfail := by
  unfold checked
  split
  · next e he => rcases precheck_code he with rfl | rfl | rfl <;> exact nofun
  · exact h

theorem noZfail_withSrc {s : State} {n : Nat} {body : Bytes → CmdResult} (h : ∀ bs, (body bs).NoZfail) :
    (withSrc s n body).NoZfail := by
  unfold withSrc
  split
  · exact h _
  · exact nofun

/-- In STORED mode the compressor always gives a stream (R145). -/
theorem noZfail_withZlib {s : State} (hz : s.zmode = 1) {d : Bytes} {body : Bytes → CmdResult}
    (h : ∀ z, (body z).NoZfail) : (withZlib s d body).NoZfail := by
  rw [withZlib_some (by rw [hz, zlib_stored])]
  exact h _

theorem noZfail_put (s : State) (out : Bytes) : (put s out).NoZfail := by
  rcases put_cases s out with ⟨-, h⟩ | h | ⟨a, h⟩ <;> rw [h]
  · trivial
  · exact nofun
  · exact nofun

theorem noZfail_onOk {r : CmdResult} {f : State → State} (h : r.NoZfail) : (r.onOk f).NoZfail := by
  cases r with
  | ok u out => trivial
  | err u c info => exact h

theorem noZfail_putChunk (s : State) (t d : Bytes) : (putChunk s t d).NoZfail := noZfail_onOk (noZfail_put s _)

/-- No command's result is ZFAIL in STORED mode (R208). -/
theorem noZfail_resultOf {s : State} (hz : s.zmode = 1) (i : Instr) : (resultOf i s).NoZfail := by
  cases i with
  | nop | crcInit | crcByte | size => trivial
  | crcBuf =>
    refine noZfail_checked ?_
    split
    · trivial
    · exact nofun
  | pack => exact noZfail_checked (noZfail_withSrc fun _ => noZfail_onOk (noZfail_put _ _))
  | zlib => exact noZfail_checked (noZfail_withSrc fun _ => noZfail_withZlib hz fun _ => noZfail_put _ _)
  | chunk => exact noZfail_checked (noZfail_withSrc fun _ => noZfail_putChunk _ _ _)
  | ihdr => exact noZfail_checked (noZfail_putChunk _ _ _)
  | idat =>
    refine noZfail_checked (noZfail_withSrc fun _ => noZfail_withZlib (by exact hz) fun _ => ?_)
    exact noZfail_onOk (noZfail_putChunk _ _ _)
  | iend => exact noZfail_checked (noZfail_putChunk _ _ _)
  | sig => exact noZfail_checked (noZfail_put _ _)
  | encode =>
    refine noZfail_checked (noZfail_withSrc fun _ => noZfail_withZlib (by exact hz) fun _ => ?_)
    exact noZfail_onOk (noZfail_put _ _)

/-! ### Which result registers a command writes -/

/-- The registers that a success of `i` leaves: the table of section 10 of 10_state.md. -/
def OkFrame (i : Instr) (s u : State) : Prop :=
  (i ∉ [.size, .encode] → u.width = s.width) ∧
  ((∀ b, i ≠ .crcByte b) → i ∉ [.crcInit, .crcBuf] → i ∉ [.chunk, .ihdr, .idat, .iend, .encode] →
    u.crcState = s.crcState) ∧
  (i ∉ [.pack, .idat, .encode] → u.xhst = s.xhst) ∧ (i ∉ [.pack, .idat, .encode] → u.latch = s.latch)

/-- The registers that an error of `i` leaves (R213). -/
def ErrFrame (i : Instr) (s u : State) : Prop :=
  (i ∉ [.size, .encode] → u.width = s.width) ∧
  ((∀ b, i ≠ .crcByte b) → i ∉ [.crcInit, .crcBuf] → u.crcState = s.crcState) ∧
  u.xhst = s.xhst ∧ (i ∉ [.pack, .idat, .encode] → u.latch = s.latch)

theorem okFrame_refl (i : Instr) (s : State) : OkFrame i s s :=
  ⟨fun _ => rfl, fun _ _ _ => rfl, fun _ => rfl, fun _ => rfl⟩

theorem errFrame_refl (i : Instr) (s : State) : ErrFrame i s s := ⟨fun _ => rfl, fun _ _ => rfl, rfl, fun _ => rfl⟩

/-- Every command leaves the registers that are not its own, on success and on error. -/
theorem resultOf_leaves_frame (i : Instr) (s : State) :
    (resultOf i s).Leaves (fun u _ => OkFrame i s u) (ErrFrame i s) := by
  have herr := errFrame_refl i s
  cases i with
  | nop => exact okFrame_refl .nop s
  | crcInit | crcByte | size => simp [resultOf, CmdResult.Leaves, OkFrame]
  | crcBuf =>
    refine leaves_checked herr ?_
    split <;> simp [CmdResult.Leaves, OkFrame, ErrFrame]
  | pack =>
    refine leaves_checked herr (leaves_withSrc herr (leaves_onOk (leaves_put ?_ ?_)))
    · simp [ErrFrame]
    · simp [OkFrame]
  | zlib =>
    exact leaves_checked herr (leaves_withSrc herr (leaves_withZlib herr fun _ _ => leaves_put herr (okFrame_refl _ s)))
  | chunk =>
    refine leaves_checked herr (leaves_withSrc herr (leaves_putChunk herr ?_))
    simp [OkFrame]
  | ihdr | iend =>
    refine leaves_checked herr (leaves_putChunk herr ?_)
    simp [OkFrame]
  | idat =>
    have hlatch (l : Bool) : ErrFrame .idat s { s with latch := l } := by simp [ErrFrame]
    refine leaves_checked herr (leaves_withSrc herr (leaves_withZlib (hlatch _) fun _ _ => ?_))
    refine leaves_onOk (leaves_putChunk (hlatch _) ?_)
    simp [OkFrame]
  | sig => exact leaves_checked herr (leaves_put herr (okFrame_refl _ s))
  | encode =>
    have hbegun (w : BitVec 16) (l : Bool) : ErrFrame .encode s { s with width := w, latch := l } := by simp [ErrFrame]
    refine leaves_checked herr (leaves_withSrc (hbegun _ s.latch) (leaves_withZlib (hbegun _ _) fun _ _ => ?_))
    refine leaves_onOk (leaves_put (hbegun _ _) ?_)
    simp [OkFrame]

/-! ### Which bytes a completion writes -/

/-- The bytes that the step from `s` to `t` leaves (R71). -/
def MemFrame (s t : State) : Prop :=
  (∀ a, OutsideDst s a → t.mem.read a = s.mem.read a) ∧
  (t.errcode = .none → ∀ a, a < s.dstAddr.toNat ∨ s.dstAddr.toNat + t.outLen.toNat ≤ a → t.mem.read a = s.mem.read a) ∧
  (t.errcode ∈ [.illegalCmd, .illegalCfg, .range, .overlap] → t.mem = s.mem)

theorem toNat_outLen {out : Bytes} {cap : Word} (h : out.length ≤ cap.toNat) :
    (BitVec.ofNat 32 out.length).toNat = out.length := by
  rw [BitVec.toNat_ofNat, Nat.mod_eq_of_lt (h.trans_lt cap.isLt)]

theorem memFrame_completeOk {s u : State} {out : Bytes} (hu : Agrees s u) (hlen : out.length ≤ s.dstCap.toNat) :
    MemFrame s (completeOk u out) := by
  obtain ⟨hmem, -, -, haddr, -⟩ := hu.same
  refine ⟨fun a ha => ?_, fun _ a ha => ?_, fun hc => ?_⟩
  · rw [completeOk_mem, hmem, haddr]
    exact Memory.read_store_outside (ha.imp_right (Nat.add_le_add_left hlen _).trans)
  · rw [completeOk_outLen, toNat_outLen hlen] at ha
    rw [completeOk_mem, hmem, haddr]
    exact Memory.read_store_outside ha
  · rw [completeOk_errcode] at hc
    exact absurd hc (by decide)

theorem memFrame_raiseError {s u : State} {c : ErrCode} {info : Word} (hu : Agrees s u) (hc : ErrShape c info) :
    MemFrame s (raiseError u c info) := by
  obtain ⟨hmem, -, -, haddr, hcap⟩ := hu.same
  obtain ⟨hne, -⟩ := hc
  refine ⟨fun a ha => ?_, fun h => ?_, fun h => ?_⟩
  · rw [raiseError_mem]
    split
    · rw [← hmem]
      exact read_spoilWindow (s := u) (by rwa [OutsideDst, haddr, hcap])
    · rw [hmem]
  · exact absurd ((raiseError_errcode u c info).symm.trans h) hne
  · rw [raiseError_errcode] at h
    have hpre : c.isExecution = false := by
      simp only [List.mem_cons, List.not_mem_nil, or_false] at h
      rcases h with rfl | rfl | rfl | rfl <;> rfl
    rw [raiseError_mem, hpre, hmem]
    rfl

theorem memFrame_engineTurn {s t : State} (he : s.eng = .busy) (h : engineTurn s = .next t) : MemFrame s t := by
  rcases engineTurn_completes he h with ⟨u, out, rfl, hu, hlen, -⟩ | ⟨u, c, info, rfl, hu, hc⟩
  · exact memFrame_completeOk hu hlen
  · exact memFrame_raiseError hu hc

/-! ### The statements -/

/-- Settles O43: a compressor failure is the only source of ZFAIL. -/
theorem storedModeNeverFails : Obligations.StoredModeNeverFails := by
  unfold Obligations.StoredModeNeverFails
  intro i s t hz h
  rcases exec_cases h with ⟨u, out, rfl, -⟩ | ⟨u, c, info, rfl, hres, -⟩
  · exact nofun
  · have hno := noZfail_resultOf hz i
    rw [hres] at hno
    rwa [raiseError_errcode]

/-- Settles O57: the output fits an existing window, so each of its bytes is stored once. -/
theorem outputReadsBackFromMemory : Obligations.OutputReadsBackFromMemory := by
  unfold Obligations.OutputReadsBackFromMemory
  intro i f s out l hwf hf hb hp hr hw
  obtain ⟨u, hres, hu, hend⟩ := resultOf_of_builds_ok hf hb hp hr hw
  obtain ⟨hmem, -, -, haddr, hcap⟩ := hu.same
  have hfits : s.dstAddr.toNat + out.length ≤ addressSpace := by
    rcases hend with rfl | hend
    · exact s.dstAddr.isLt.le
    · exact (Nat.add_le_add_left hw.1 _).trans hend
  refine ⟨completeOk u out, exec_of_ok hres, rfl, toNat_outLen hw.1, ?_, fun k hk => ?_, fun a ha => ?_⟩
  · rw [completeOk_mem, hmem, haddr]
    exact Memory.wf_store hwf hfits
  · rw [completeOk_mem, hmem, haddr, Memory.read_store_inside hwf hfits hk, List.getD_eq_getElem _ _ hk]
  · rw [completeOk_mem, hmem, haddr]
    exact Memory.read_store_outside ha

/-- Settles O58: a completion stores its output in the window, spoils the window, or leaves memory. -/
theorem engineWritesOnlyTheDstWindow : Obligations.EngineWritesOnlyTheDstWindow := by
  unfold Obligations.EngineWritesOnlyTheDstWindow
  intro s t hn he h
  exact memFrame_engineTurn (s := s.popTurn) he (step_engine hn ▸ h)

/-- Settles O59: a command writes only registers that `Agrees` names, and a completion writes none of the host's. -/
theorem engineKeepsTheHostsRegisters : Obligations.EngineKeepsTheHostsRegisters := by
  unfold Obligations.EngineKeepsTheHostsRegisters
  intro s t hn he h
  rcases engineTurn_completes (s := s.popTurn) he (step_engine hn ▸ h) with
    ⟨u, out, rfl, hu, -⟩ | ⟨u, c, info, rfl, hu, -⟩ <;> rw [hu] <;> simp

/-- Settles O60: the frame of the command's result, which its completion passes on. -/
theorem resultRegistersChangeOnlyByTheirCommands : Obligations.ResultRegistersChangeOnlyByTheirCommands := by
  unfold Obligations.ResultRegistersChangeOnlyByTheirCommands
  intro i s t h
  have hframe := resultOf_leaves_frame i s
  rcases exec_cases h with ⟨u, out, rfl, hres, -⟩ | ⟨u, c, info, rfl, hres, -, hc⟩ <;> rw [hres] at hframe
  · obtain ⟨hwidth, hcrc, hxhst, hlatch⟩ := hframe
    have hok : ¬(completeOk u out).errcode ≠ .none := not_not_intro rfl
    exact ⟨rfl, rfl, hwidth, fun h1 h2 h3 => hcrc h1 h2 (h3.resolve_left hok), fun h => hxhst (h.resolve_left hok),
      hlatch, fun h => absurd h hok, fun _ _ => rfl⟩
  · obtain ⟨hwidth, hcrc, hxhst, hlatch⟩ := hframe
    simp only [raiseError_done, raiseError_eng, raiseError_width, raiseError_crcState, raiseError_xhst,
      raiseError_latch, raiseError_outLen, raiseError_errAddr, raiseError_errcode]
    refine ⟨trivial, trivial, hwidth, fun h1 h2 _ => hcrc h1 h2, fun _ => hxhst, hlatch, fun _ => trivial,
      fun h5 h8 => hc.2 ?_⟩
    simp [ErrCode.hasAddr, h5, h8]

/-- Settles O5: a BUSY engine moves first and completes; the host's CMD write then finds it IDLE. -/
theorem everyAcceptedCommandEndsAndTheNextIsAccepted : Obligations.EveryAcceptedCommandEndsAndTheNextIsAccepted := by
  unfold Obligations.EveryAcceptedCommandEndsAndTheNextIsAccepted
  intro s w he hrst hturns hhost hadm
  have hn : s.nextAgent = .engine := by rw [State.nextAgent, hturns, busyBit_of_busy he]; rfl
  obtain ⟨t, ht⟩ : ∃ t, step s = .next t := by
    cases hd : decode s.cur with
    | none => exact ⟨_, (step_engine hn).trans (engineTurn_illegal (s := s.popTurn) he hd)⟩
    | some i => exact ⟨_, (step_of_admitted hn he hd (hadm i hd)).trans (exec_eq i s.popTurn)⟩
  have hends : t.eng = .idle ∧ t.done = true ∧ (t.errcode ≠ .none → t.outLen = 0) := by
    rcases engineTurn_completes (s := s.popTurn) he (step_engine hn ▸ ht) with
      ⟨u, out, rfl, -⟩ | ⟨u, c, info, rfl, -⟩ <;> simp
  obtain ⟨hidle, hdone, hout⟩ := hends
  obtain ⟨-, -, -, -, -, -, -, -, -, -, hplatform, hthost, htturns, -, htrst⟩ :=
    engineKeepsTheHostsRegisters s t hn he ht
  have hport : PortNext t (.writeTo t.platform .cmd w) := by
    refine ⟨⟨?_, ?_⟩, htrst.trans hrst⟩
    · rw [State.nextAgent, htturns, hturns, List.tail_nil, busyBit_of_idle hidle]
      rfl
    · rw [hthost, hplatform, hhost]
  obtain ⟨-, haccept⟩ := cmdWriteIsAcceptedWhileIdle t w hport
  exact ⟨t, _, ht, hidle, hdone, hout, haccept hidle, rfl, rfl⟩

end Sys2Proof.Machine
end

section
/-! PROOFS. Inflating Huffman blocks, on concrete streams (42_zlib.md R151 to R153; 95_test_vectors.md). -/

namespace Sys2Proof.Machine

/-- Settles O42: the streams are evaluated one by one, and so are the entries of the two tables. -/
theorem inflateDecodesHuffmanBlocks : Obligations.InflateDecodesHuffmanBlocks := by
  unfold Obligations.InflateDecodesHuffmanBlocks
  refine ⟨?fixedCodes, ?fixedBlock, ?overlappingCopy, ?longestCopy, ?dynamicBlock, ?btypeThree, ?distanceBeforeStart,
    ?trailingByte, ?lengthBases, rfl, rfl, rfl, rfl, ?distBases, rfl, rfl, rfl⟩
  case fixedCodes => decide +kernel
  case fixedBlock => decide +kernel
  case overlappingCopy => decide +kernel
  case longestCopy => decide +kernel
  case dynamicBlock => decide +kernel
  case btypeThree => decide +kernel
  case distanceBeforeStart => decide +kernel
  case trailingByte => decide +kernel
  case lengthBases => decide
  case distBases => decide

end Sys2Proof.Machine
end
